-- ==== Sys2Proof/Word.lean ====
section
/-! DEFINITION. The word types of the block and the names of its nine states. Bit 0 is the least significant bit of a value (R9). -/

namespace Sys2Proof

/-- One byte: a byte of caller memory, a data byte, SAD (R21, R58). -/
abbrev Byte := BitVec 8

/-- A request word REQ (R72). -/
abbrev ReqWord := BitVec 16

/-- A state code, format ST (R70): 0 to 8 name a state, 9 to 15 are illegal. -/
abbrev StCode := BitVec 4

/-- The nine states of the FSM, in the order of the document's list (R70). -/
inductive FsmState where
  | idle
  | start
  | stop
  | reset
  | transmitByte
  | receiveByte
  | nackReceived
  | arbitrationLost
  | busError
  deriving DecidableEq, Repr

end Sys2Proof
end

