-- ==== Sys2Proof/Config.lean ====
section
/-! DEFINITION. What an implementation fixes (R8) and what the environment leaves free (R178): the parameters, the moves
that host and interrupt mechanism can make, and the free values, which have no body. -/

namespace Sys2Proof

/-- A range of caller-memory addresses: `size` addresses from `base` on. -/
structure AddrRange where
  base : Nat
  size : Nat
  deriving DecidableEq, Repr

/-- The parameters of the model (R8, R53). They are carried in the state and never change (log 3), so that a statement
about every state holds for every choice of them. -/
structure Params where
  /-- LEN_BITS, the width of LEN and CUR: at least 1 (R8, D2). -/
  lenBits : Nat
  /-- BUF_ADDR_BITS, the width of BUF and of caller-memory addresses: at least 1 (R8, D2). -/
  bufAddrBits : Nat
  /-- HAS_LAST_ERROR: the register LASTERR is present (R26). -/
  hasLastError : Bool
  /-- ATOMIC_LAUNCH: LAUNCH and its dispatch are one step (R144). -/
  atomicLaunch : Bool
  /-- MemAdmit (R53), by its complement: the ranges of addresses that no memory backs. -/
  unbacked : List AddrRange
  deriving DecidableEq, Repr

/-- The defaults: HAS_LAST_ERROR false and ATOMIC_LAUNCH true are R8's; the widths 8 and 16 and the admission of every
address are the conventions of the spec's test vectors. DESIGN CHOICE (log 3): unsafe for a statement about
`State.reset` alone, safe for a statement about every state. -/
def Config.defaultParams : Params :=
  { lenBits := 8, bufAddrBits := 16, hasLastError := false, atomicLaunch := true, unbacked := [] }

/-- The two calling contexts (R172). -/
inductive Context where
  | foreground
  | interrupt
  deriving DecidableEq, Repr

/-- The registers the host may read (R28). -/
inductive Reg where
  | sad
  | buf
  | len
  | cur
  | state
  | lastErr
  deriving DecidableEq, Repr

/-- One move of the host or of the interrupt mechanism: one event of the total order of R64 (R181, R178). -/
inductive Event where
  /-- Nobody moves. A run in which nobody moves any more is a hang, which the model admits (R12). -/
  | quiet
  /-- A request word with the values on the two operand ports REF and N (R72), issued from `ctx` (R172). -/
  | request (ctx : Context) (req : ReqWord) (ref n : Nat)
  /-- LAUNCH_B, the second half of a split LAUNCH (R144). -/
  | launchB
  /-- The host writes byte `v` at address `a` of caller memory (R56). -/
  | hostWrite (a : Nat) (v : Byte)
  /-- The host reads caller memory (R57). -/
  | hostRead (a : Nat)
  /-- The host reads a register (R28). -/
  | hostReadReg (r : Reg)
  deriving DecidableEq, Repr, Inhabited

/-- The environment's draw number `k`: which move comes next, where `State.inputs` lists none. A free value: when an IRQ is
delivered, its flags and its data byte are draws of the environment with no law from the block (R178, D32, D33; log 2). -/
opaque Config.environment : Nat → Event

/-- The byte READ_DATA returns where H_RX runs outside an IRQ, which happens only in a split LAUNCH: an unconstrained draw
(R108, D20; log 8). -/
opaque Config.freeRead : Nat → Byte

/-- PERIPH_INIT, the peripheral's state at process start, as a number without structure. No rule reads it (R203, D34; log 11). -/
opaque Config.periphInit : Nat

end Sys2Proof
end

