-- ==== Sys2Proof/Syntax.lean ====
section
/-! DEFINITION. The rows of the opcode table: four requests to the block and nine state handlers (R3). -/

namespace Sys2Proof

/-- What this spec treats as instructions (R3), one constructor for each row of the opcode table. -/
inductive Instr where
  /-- SET_BUFFER (R146): `ref` and `n` are the values on the operand ports REF and N (R72, R73). -/
  | setBuffer (ref n : Nat)
  /-- LAUNCH (R141): `addr` is A, the 7-bit slave address; `read` is D, true for a read (R74). -/
  | launch (addr : BitVec 7) (read : Bool)
  /-- IRQ (R131): the NACK, arbitration-lost and bus-error flags K, L, B, and the data byte RD (R76). -/
  | irq (nack arb berr : Bool) (rd : Byte)
  /-- EXT_RESET (R150). -/
  | extReset
  /-- H_IDLE (R103). -/
  | hIdle
  /-- H_START (R104). -/
  | hStart
  /-- H_STOP (R110). -/
  | hStop
  /-- H_RESET (R111). -/
  | hReset
  /-- H_TX (R106). -/
  | hTx
  /-- H_RX (R108). -/
  | hRx
  /-- H_NACK (R112). -/
  | hNack
  /-- H_ARB (R113). -/
  | hArb
  /-- H_BUSERR (R114). -/
  | hBuserr
  deriving DecidableEq, Repr

end Sys2Proof
end

