-- ==== Sys2Proof/WellFormed.lean ====
section
/-! DEFINITION. When an instruction can be on the ports, and when parameters are legal: REF is BUF_ADDR_BITS wide and N is
LEN_BITS wide (R72); both widths are at least 1 (R8). Every other field fills its type. -/

namespace Sys2Proof

/-- Both widths are at least 1 (R8). -/
def Params.wf (p : Params) : Bool :=
  decide (1 ≤ p.lenBits) && decide (1 ≤ p.bufAddrBits)

/-- The operand fits its port: REF has BUF_ADDR_BITS lines, N has LEN_BITS lines (R72). -/
def Instr.wf (p : Params) (i : Instr) : Bool :=
  match i with
  | .setBuffer ref n => decide (ref < 2 ^ p.bufAddrBits) && decide (n < 2 ^ p.lenBits)
  | .launch _ _ => true
  | .irq _ _ _ _ => true
  | .extReset => true
  | .hIdle => true
  | .hStart => true
  | .hStop => true
  | .hReset => true
  | .hTx => true
  | .hRx => true
  | .hNack => true
  | .hArb => true
  | .hBuserr => true

end Sys2Proof
end

