-- ==== Sys2Proof/Decode.lean ====
section
/-! DEFINITION. The request decoder (R78), the state decoder (R81), the encoder (R70, R73 to R76), the rows of the opcode
table as match/mask pairs (R78), and the table's own reading of a word (`decodeTableWord`). -/

namespace Sys2Proof

/-- The refusal reasons (R80). -/
inductive RefusalReason where
  /-- The op field is 0x0 or 0x5 to 0xF. -/
  | reservedOp
  /-- A must-be-zero bit of R73 to R76 is 1. -/
  | reservedBits
  /-- Text form only: a `launch` whose address is above 0x7F (D23). Raised by the assembler, never by the block. -/
  | addressRange
  deriving DecidableEq, Repr

/-! ### State codes (R70) -/

/-- The 4-bit code of a state (R70). -/
def stateCode (q : FsmState) : StCode :=
  match q with
  | .idle => 0
  | .start => 1
  | .stop => 2
  | .reset => 3
  | .transmitByte => 4
  | .receiveByte => 5
  | .nackReceived => 6
  | .arbitrationLost => 7
  | .busError => 8

/-- The state a code names; codes 9 to 15 name none (R70, R81). -/
def stateOfCode (c : StCode) : Option FsmState :=
  match c.toNat with
  | 0 => some .idle
  | 1 => some .start
  | 2 => some .stop
  | 3 => some .reset
  | 4 => some .transmitByte
  | 5 => some .receiveByte
  | 6 => some .nackReceived
  | 7 => some .arbitrationLost
  | 8 => some .busError
  | _ => none

/-- The handler of a state, as a row of the opcode table (R70). -/
def handlerOf (q : FsmState) : Instr :=
  match q with
  | .idle => .hIdle
  | .start => .hStart
  | .stop => .hStop
  | .reset => .hReset
  | .transmitByte => .hTx
  | .receiveByte => .hRx
  | .nackReceived => .hNack
  | .arbitrationLost => .hArb
  | .busError => .hBuserr

/-- The state decoder: STATE code to handler; 9 to 15 select none (R81). -/
def decodeState (c : StCode) : Option Instr :=
  (stateOfCode c).map handlerOf

/-! ### Request words (R72 to R79) -/

/-- `v[lo + n - 1 : lo]` (R9). -/
def bitField (v : ReqWord) (lo n : Nat) : BitVec n :=
  v.extractLsb' lo n

/-- The request decoder, total on every 16-bit word (R78). `ref` and `n` are the values on the operand ports (R72). -/
def decodeRequest (w : ReqWord) (ref n : Nat) : Except RefusalReason Instr :=
  match (bitField w 0 4).toNat with
  | 1 => if bitField w 4 12 ≠ 0 then .error .reservedBits else .ok (.setBuffer ref n)
  | 2 =>
    if bitField w 12 4 ≠ 0 then .error .reservedBits
    else .ok (.launch (bitField w 4 7) (w.getLsbD 11))
  | 3 =>
    if w.getLsbD 7 then .error .reservedBits
    else .ok (.irq (w.getLsbD 4) (w.getLsbD 5) (w.getLsbD 6) (bitField w 8 8))
  | 4 => if bitField w 4 12 ≠ 0 then .error .reservedBits else .ok .extReset
  | _ => .error .reservedOp

/-- The calling context that issues an operation: the interrupt mechanism issues IRQ and nothing else (R172). -/
def issuer (i : Instr) : Context :=
  match i with
  | .irq _ _ _ _ => .interrupt
  | .setBuffer _ _ => .foreground
  | .launch _ _ => .foreground
  | .extReset => .foreground
  | .hIdle => .foreground
  | .hStart => .foreground
  | .hStop => .foreground
  | .hReset => .foreground
  | .hTx => .foreground
  | .hRx => .foreground
  | .hNack => .foreground
  | .hArb => .foreground
  | .hBuserr => .foreground

/-! ### Both formats together -/

/-- The bits of an instruction: a request word with the values on its operand ports (format REQ), or a state code (format ST). -/
inductive Encoded where
  | req (w : ReqWord) (ref n : Nat)
  | st (c : StCode)
  deriving DecidableEq, Repr

/-- What decoding gives: an instruction, a refusal of a request word (R79), or no handler (R81). -/
inductive Decoded where
  | instr (i : Instr)
  | refused (r : RefusalReason)
  | illegalState
  deriving DecidableEq, Repr

/-- Decoding either format; total, and every rejection has its name. -/
def decode (e : Encoded) : Decoded :=
  match e with
  | .req w ref n =>
    match decodeRequest w ref n with
    | .ok i => .instr i
    | .error r => .refused r
  | .st c =>
    match decodeState c with
    | some i => .instr i
    | none => .illegalState

/-! ### The encoder (R70, R73 to R76) -/

/-- `0000 D AAAAAAA 0010` (R74). -/
def launchWord (addr : BitVec 7) (read : Bool) : ReqWord :=
  0#4 ++ BitVec.ofBool read ++ addr ++ 2#4

/-- `RRRRRRRR 0 B L K 0011` (R76). -/
def irqWord (nack arb berr : Bool) (rd : Byte) : ReqWord :=
  rd ++ 0#1 ++ BitVec.ofBool berr ++ BitVec.ofBool arb ++ BitVec.ofBool nack ++ 3#4

/-- The bits of an instruction, from the encoding tables R70 and R73 to R76. -/
def encode (i : Instr) : Encoded :=
  match i with
  | .setBuffer ref n => .req 0x0001 ref n
  | .launch addr read => .req (launchWord addr read) 0 0
  | .irq nack arb berr rd => .req (irqWord nack arb berr rd) 0 0
  | .extReset => .req 0x0004 0 0
  | .hIdle => .st 0
  | .hStart => .st 1
  | .hStop => .st 2
  | .hReset => .st 3
  | .hTx => .st 4
  | .hRx => .st 5
  | .hNack => .st 6
  | .hArb => .st 7
  | .hBuserr => .st 8

/-! ### The opcode table (R78, and the state codes of R70) -/

/-- One row of the opcode table: how many bits its number has, and its match/mask pair. -/
structure TableRow where
  bits : Nat
  pattern : Nat
  mask : Nat
  deriving DecidableEq, Repr

/-- The row of the opcode table an instruction belongs to. -/
def tableRow (i : Instr) : TableRow :=
  match i with
  | .setBuffer _ _ => ⟨16, 0x0001, 0xFFFF⟩
  | .launch _ _ => ⟨16, 0x0002, 0xF00F⟩
  | .irq _ _ _ _ => ⟨16, 0x0003, 0x008F⟩
  | .extReset => ⟨16, 0x0004, 0xFFFF⟩
  | .hIdle => ⟨4, 0, 0xF⟩
  | .hStart => ⟨4, 1, 0xF⟩
  | .hStop => ⟨4, 2, 0xF⟩
  | .hReset => ⟨4, 3, 0xF⟩
  | .hTx => ⟨4, 4, 0xF⟩
  | .hRx => ⟨4, 5, 0xF⟩
  | .hNack => ⟨4, 6, 0xF⟩
  | .hArb => ⟨4, 7, 0xF⟩
  | .hBuserr => ⟨4, 8, 0xF⟩

/-- The bits fit a row: they are of its format, and `(w AND mask) = match` (R78). -/
def Encoded.fits (e : Encoded) (r : TableRow) : Bool :=
  match e with
  | .req w _ _ => r.bits == 16 && (w.toNat &&& r.mask) == r.pattern
  | .st c => r.bits == 4 && (c.toNat &&& r.mask) == r.pattern

/-- The bits that the opcode table numbers `w`, for a row of `nbits` bits in whole bytes: a state code (format ST) fits one
byte, a request word (format REQ) two; the operand ports of a request carry zeros. A number too large for its format spells nothing. -/
def tableBits (nbits w : Nat) : Option Encoded :=
  if nbits ≤ 8 then
    if w < 16 then some (.st (BitVec.ofNat 4 w)) else none
  else if nbits ≤ 16 then
    if w < 65536 then some (.req (BitVec.ofNat 16 w) 0 0) else none
  else none

/-- The instruction the decoder reads from the bits that the opcode table numbers `w`. -/
def decodeTableWord (nbits w : Nat) : Option Instr :=
  match tableBits nbits w with
  | some e =>
    match decode e with
    | .instr i => some i
    | .refused _ => none
    | .illegalState => none
  | none => none

end Sys2Proof
end

