-- ==== Sys2Proof/Machine/State.lean ====
section
/-! DEFINITION. The state of the machine as plain data (R20 to R35), the command records (R77), the fault records (R166), the
reasons a step can stop, and the state after reset (R39, R200). -/

namespace Sys2Proof.Machine

/-- Caller memory (R50): address and byte pairs, addresses strictly rising, no entry equal to what an unlisted address reads as. -/
abbrev Memory := List Host.Cell

/-- One command record sent to the peripheral (R77). -/
inductive Cmd where
  | issueAddr (arg : Byte)
  | writeData (arg : Byte)
  | readData (arg : Byte)
  | issueStop
  | flush
  | forceIdle
  deriving DecidableEq, Repr

/-- A fault reason with the information recorded with it (R166). These are the values of the sticky mark FAULT (R32); `faultCode` gives a
reason its code. -/
inductive FaultRecord where
  /-- Code 1. A byte handler runs with CUR >= LEN; raised by H_TX and H_RX (R106, R108). -/
  | bufferOverrun (state : StCode) (cur len : Nat)
  /-- Code 2. BUF + CUR passes the top of caller memory; raised by the buffer access (R52). -/
  | addressOverflow (buf cur : Nat)
  /-- Code 3. SET_BUFFER while a transaction is active; raised by SET_BUFFER (R147). -/
  | setBufferWhileBusy (state : StCode) (ref n : Nat)
  /-- Code 4. A host write into the buffer region while a transaction is active; raised by `step` (R56). -/
  | bufferWriteWhileBusy (state : StCode) (addr : Nat)
  /-- Code 5. A dispatch with STATE in 9 to 15; raised by IRQ and by LAUNCH_B (R101). -/
  | illegalState (state : StCode)
  deriving DecidableEq, Repr

/-- Why a step stops with a fault. An operation that raises one of the spec's faults does not end here: it takes a next state in
which FAULT is set (R167, log 5); these are the stops of a block that has no step. -/
inductive Fault where
  /-- FAULT is set, so no operation and no host access has a step (R165). Raised by every meaning and by `step`. Safe. -/
  | faulted (r : FaultRecord)
  /-- Stuck: MemAdmit rejects the address of a caller-memory access, so the access has no step (R53, R168). Raised by H_TX, H_RX and
  the host accesses. Safe (log 6). -/
  | stuck (addr : Nat)
  deriving DecidableEq, Repr

/-- Why a step is refused. -/
inductive Refusal where
  /-- An instruction without a meaning. Raised by no arm of this model. Safe. -/
  | notModelled (mnemonic : String)
  /-- REFUSED is set, so the block takes no further step (R33, R79). Raised by every meaning and by `step`. DESIGN CHOICE for the host's
  accesses, whose stop after a refusal the spec leaves open (log 23). Safe. -/
  | requestRefused (r : RefusalReason)
  /-- The move does not exist: an IRQ from the foreground, another request from the interrupt mechanism (R172, R181), or a LAUNCH_B that
  no LAUNCH owes (R144). Raised by `step` only. Safe (log 12, log 13). -/
  | noMove (e : Event)
  deriving DecidableEq, Repr

/-- The whole state. -/
structure State where
  /-- SAD, `slave_address_and_direction` (R21). -/
  sad : Byte
  /-- BUF, the buffer reference, BUF_ADDR_BITS wide (R22; log 4). -/
  buf : Nat
  /-- LEN, `buffer_length`, LEN_BITS wide (R23; log 4). -/
  len : Nat
  /-- CUR, `cursor`, LEN_BITS wide (R24; log 4). -/
  cur : Nat
  /-- STATE, `current_state`, a 4-bit code (R25, R70). -/
  state : StCode
  /-- LASTERR, present only when HAS_LAST_ERROR (R26, R71; log 18). -/
  lastErr : BitVec 2
  /-- FAULT, the sticky fault mark (R32). -/
  fault : Option FaultRecord
  /-- REFUSED, the sticky refusal mark (R33). -/
  refused : Option RefusalReason
  /-- CT, the command trace, oldest first (R34). -/
  ct : List Cmd
  /-- HT, the handler trace, oldest first (R35). -/
  ht : List StCode
  /-- Caller memory (R50). -/
  mem : Memory
  /-- PEND, the environment's bit: an interrupt the peripheral owes (R179; log 11). -/
  pend : Bool
  /-- How many LAUNCHes have run LAUNCH_A and not yet LAUNCH_B (R144; log 12). -/
  launchesOwed : Nat
  /-- The moves of host and interrupt mechanism yet to come, next first; past its end the environment draws (log 1, log 2). -/
  inputs : List Event
  /-- The counter of the free draws (log 2, log 8). -/
  draws : Nat
  /-- The parameters, which no step changes (R8; log 3). -/
  params : Params
  deriving DecidableEq, Repr

/-- The state after reset, for any parameters: every register zero, STATE = Idle, the marks clear and the traces empty (R39, R200);
the other fields as log 1, 7, 8, 11 and 12 say. -/
def State.resetWith (p : Params) : State :=
  { sad := 0
    buf := 0
    len := 0
    cur := 0
    state := 0
    lastErr := 0
    fault := none
    refused := none
    ct := []
    ht := []
    mem := []
    pend := false
    launchesOwed := 0
    inputs := []
    draws := 0
    params := p }

/-- The state after reset, with the default parameters (log 3). -/
def State.reset : State :=
  State.resetWith Config.defaultParams

/-- What a part of an operation gives: a value and the way on, a fault to be raised, or no step (R12). -/
inductive Effect (α : Type) where
  | done (a : α)
  | raise (r : FaultRecord)
  | stuck (addr : Nat)
  deriving DecidableEq, Repr

end Sys2Proof.Machine
end

