-- ==== Sys2Proof/Machine/Ops.lean ====
section
/-! DEFINITION. The named operations over registers, traces and caller memory, and the shared ends of an operation: raising
a fault (R167), refusing a request (R79), and having no step (R130, R165, R168). -/

namespace Sys2Proof.Machine

/-! ### Registers and traces -/

/-- `SAD <- v` (R21). -/
def State.setSad (s : State) (v : Byte) : State := { s with sad := v }

/-- `BUF <- ref; LEN <- n; CUR <- 0` (R146). -/
def State.assignBuffer (s : State) (ref n : Nat) : State := { s with buf := ref, len := n, cur := 0 }

/-- `CUR <- c` (R24). -/
def State.setCur (s : State) (c : Nat) : State := { s with cur := c }

/-- `STATE <- q` (R25). -/
def State.setState (s : State) (q : FsmState) : State := { s with state := stateCode q }

/-- `LASTERR <- c`, which does nothing where the register is absent (R26). -/
def State.setLastErr (s : State) (c : BitVec 2) : State :=
  { s with lastErr := if s.params.hasLastError then c else s.lastErr }

/-- `HT <- HT ++ [c]` (R35). -/
def State.pushHandler (s : State) (c : StCode) : State := { s with ht := s.ht ++ [c] }

/-- `PEND <- 0`: the owed interrupt is delivered (R179). -/
def State.clearPend (s : State) : State := { s with pend := false }

/-- Sets how many LAUNCH_B are owed (R144). -/
def State.setLaunchesOwed (s : State) (k : Nat) : State := { s with launchesOwed := k }

/-- Takes one free draw (log 8). -/
def State.nextDraw (s : State) : State := { s with draws := s.draws + 1 }

/-- Sets the moves yet to come (log 1). -/
def State.setInputs (s : State) (l : List Event) : State := { s with inputs := l }

/-- Sets FAULT (R32). -/
def State.markFault (s : State) (r : FaultRecord) : State := { s with fault := some r }

/-- Sets REFUSED (R33). -/
def State.markRefused (s : State) (r : RefusalReason) : State := { s with refused := some r }

/-- Replaces caller memory. -/
def State.setMem (s : State) (m : Memory) : State := { s with mem := m }

/-! ### The peripheral command channel (R54, R77, R179) -/

/-- The 3-bit code of a command (R77). -/
def cmdCode (c : Cmd) : BitVec 3 :=
  match c with
  | .issueAddr _ => 1
  | .writeData _ => 2
  | .readData _ => 3
  | .issueStop => 4
  | .flush => 5
  | .forceIdle => 6

/-- The byte argument of a command, where it has one (R77). -/
def cmdArg (c : Cmd) : Option Byte :=
  match c with
  | .issueAddr v => some v
  | .writeData v => some v
  | .readData v => some v
  | .issueStop => none
  | .flush => none
  | .forceIdle => none

/-- The value a command gives PEND: after an address or data command the peripheral owes an interrupt, after a stop, a flush or a
forced idle it owes none (R179). -/
def cmdOwes (c : Cmd) : Bool :=
  match c with
  | .issueAddr _ => true
  | .writeData _ => true
  | .readData _ => true
  | .issueStop => false
  | .flush => false
  | .forceIdle => false

/-- `PeriphCmd`: appends the record to CT and sends it (R11, R34). -/
def State.sendCmd (s : State) (c : Cmd) : State := { s with ct := s.ct ++ [c], pend := cmdOwes c }

/-- The byte the peripheral supplies and the state after the draw: the RD of the IRQ being handled, or, outside an IRQ, a free
value (R108, D20; log 8). -/
def periphByte (rd : Option Byte) (s : State) : Byte × State :=
  match rd with
  | some v => (v, s)
  | none => (Config.freeRead s.draws, s.nextDraw)

/-- `PeriphRead`: the byte read, and the state with `(READ_DATA, v)` appended to CT (R11, R108). -/
def periphRead (rd : Option Byte) (s : State) : Byte × State :=
  ((periphByte rd s).1, (periphByte rd s).2.sendCmd (.readData (periphByte rd s).1))

/-! ### Caller memory (R50, R53, R60) -/

/-- What an address that memory does not list reads as. DESIGN CHOICE (log 7): the spec gives caller memory no contents before the
caller writes it; unsafe for a statement that rests on it. -/
def unlistedByte (_a : Nat) : Byte := 0

/-- The canonical form: addresses strictly rising, and no entry equal to what an unlisted address reads as. -/
abbrev Memory.wf (m : Memory) : Prop :=
  m.Pairwise (fun x y => x.1 < y.1) ∧ ∀ c ∈ m, c.2 ≠ unlistedByte c.1

/-- `MemRead(a, 1)` (R11). -/
def memRead (m : Memory) (a : Nat) : Byte :=
  match m with
  | [] => unlistedByte a
  | c :: rest => if c.1 = a then c.2 else memRead rest a

/-- `MemWrite(a, 1, v)` (R11), keeping the canonical form. -/
def memWrite (m : Memory) (a : Nat) (v : Byte) : Memory :=
  match m with
  | [] => if v = unlistedByte a then [] else [(a, v)]
  | c :: rest =>
    if a < c.1 then
      if v = unlistedByte a then c :: rest else (a, v) :: c :: rest
    else if c.1 = a then
      if v = unlistedByte a then rest else (a, v) :: rest
    else c :: memWrite rest a v

/-- `MemAdmit(a)`: the address is one of caller memory's and memory backs it (R50, R53). -/
def memAdmit (p : Params) (a : Nat) : Bool :=
  decide (a < 2 ^ p.bufAddrBits) &&
    !(p.unbacked.any fun r => decide (r.base ≤ a) && decide (a < r.base + r.size))

/-! ### Parts of an operation, and its ends -/

/-- The code of a fault reason (R166). -/
def faultCode (r : FaultRecord) : Nat :=
  match r with
  | .bufferOverrun _ _ _ => 1
  | .addressOverflow _ _ => 2
  | .setBufferWhileBusy _ _ _ => 3
  | .bufferWriteWhileBusy _ _ => 4
  | .illegalState _ => 5

/-- One part after another; a fault or the lack of a step ends the operation (R11). -/
def Effect.bind {α β : Type} (x : Effect α) (f : α → Effect β) : Effect β :=
  match x with
  | .done a => f a
  | .raise r => .raise r
  | .stuck a => .stuck a

/-- The end of an operation that began in `s`. Completed: its state. Raising a fault: `s` with FAULT set and nothing else changed,
neither a register nor a trace nor memory (R167, R130). Stuck: no step (R53, R168). -/
def finish (s : State) (x : Effect State) : Host.Outcome State Fault Refusal :=
  match x with
  | .done t => .next t
  | .raise r => .next (s.markFault r)
  | .stuck a => .fault (.stuck a)

/-- An operation has a step only when FAULT = none and REFUSED = none (R130, R165, R79). `runNext` uses it for every move, those of the
host among them (log 23). -/
def whenRunning (s : State) (k : State → Host.Outcome State Fault Refusal) : Host.Outcome State Fault Refusal :=
  match s.fault with
  | some r => .fault (.faulted r)
  | none =>
    match s.refused with
    | some r => .refused (.requestRefused r)
    | none => k s

/-- One atomic operation of the block (R130). -/
def operation (body : State → Effect State) (s : State) : Host.Outcome State Fault Refusal :=
  whenRunning s fun s => finish s (body s)

end Sys2Proof.Machine
end

