-- ==== Sys2Proof/Machine/Operands.lean ====
section
/-! DEFINITION. The operands: the ports REF and N (R72), the address and direction byte SAD (R82), the buffer access address
(R52) and the buffer region (R51). -/

namespace Sys2Proof.Machine

/-- The value on the port REF: BUF_ADDR_BITS lines (R72; log 4). -/
def portRef (p : Params) (ref : Nat) : Nat := ref % 2 ^ p.bufAddrBits

/-- The value on the port N: LEN_BITS lines (R72; log 4). -/
def portN (p : Params) (n : Nat) : Nat := n % 2 ^ p.lenBits

/-- `SAD = A ++ D` (R82): the address in bits 7 to 1, the direction in bit 0, 1 for a read (R21). -/
def sadOf (addr : BitVec 7) (read : Bool) : Byte := addr ++ BitVec.ofBool read

/-- `SAD[0]`: true for a read (R21, R104). -/
def sadIsRead (sad : Byte) : Bool := sad.getLsbD 0

/-- `BufAddr()`: the exact sum BUF + CUR, faulting past the top of caller memory (R52). -/
def bufAddr (s : State) : Effect Nat :=
  if s.buf + s.cur > 2 ^ s.params.bufAddrBits - 1 then .raise (.addressOverflow s.buf s.cur)
  else .done (s.buf + s.cur)

/-- The address of a buffer access with the check of MemAdmit (R53, R106, R108): BufferOverrun first, AddressOverflow
second, stuck third (R169). -/
def bufAccess (s : State) : Effect Nat :=
  if s.cur ≥ s.len then .raise (.bufferOverrun s.state s.cur s.len)
  else (bufAddr s).bind fun a => if memAdmit s.params a then .done a else .stuck a

/-- The address lies in the buffer region `[BUF, BUF + LEN)` (R51). -/
def inBuffer (s : State) (a : Nat) : Bool := decide (s.buf ≤ a) && decide (a < s.buf + s.len)

/-- A transaction is active exactly when STATE is not Idle (R27). -/
def isActive (s : State) : Bool := s.state != stateCode .idle

end Sys2Proof.Machine
end

