-- ==== Sys2Proof/Machine/Flags.lean ====
section
/-! DEFINITION. The three status flags an IRQ carries, and the override (R30, R132, R160). The block has no flag register and
no operation sets a flag from a result (R30, R151). -/

namespace Sys2Proof.Machine

/-- The LASTERR code of an error state, 0 for the others (R71, R160). -/
def lastErrCode (q : FsmState) : BitVec 2 :=
  match q with
  | .nackReceived => 1
  | .arbitrationLost => 2
  | .busError => 3
  | .idle => 0
  | .start => 0
  | .stop => 0
  | .reset => 0
  | .transmitByte => 0
  | .receiveByte => 0

/-- `STATE <- q; LASTERR <- its code`, where the flag is set (R132). -/
def forceError (flag : Bool) (q : FsmState) (s : State) : State :=
  if flag then (s.setState q).setLastErr (lastErrCode q) else s

/-- The override: three independent tests in the order NACK, arbitration lost, bus error, so that the last match wins (R132, C1). It
applies whatever STATE holds (R133). -/
def override (nack arb berr : Bool) (s : State) : State :=
  forceError berr .busError (forceError arb .arbitrationLost (forceError nack .nackReceived s))

end Sys2Proof.Machine
end

