-- ==== Sys2Proof/Machine/Handlers.lean ====
section
/-! DEFINITION. The nine state handlers, one dispatch (R100 to R117), and the meaning of each handler's row: the dispatch that
runs it. A handler gives the state after its effects and the next state of the FSM. -/

namespace Sys2Proof.Machine

/-! ### The handlers -/

/-- H_IDLE: no command, no memory access; Idle (R103). -/
def hIdle (s : State) : Effect (State × FsmState) :=
  .done (s, .idle)

/-- H_START: ISSUE_ADDR(SAD); TransmitByte for a write, ReceiveByte for a read (R104). -/
def hStart (s : State) : Effect (State × FsmState) :=
  .done (s.sendCmd (.issueAddr s.sad), if sadIsRead s.sad then .receiveByte else .transmitByte)

/-- ISSUE_STOP, then Idle: what H_STOP and the three error handlers do (R110, R115). -/
def stopBus (s : State) : Effect (State × FsmState) :=
  .done (s.sendCmd .issueStop, .idle)

/-- H_STOP (R110). -/
def hStop (s : State) : Effect (State × FsmState) := stopBus s

/-- H_RESET: FLUSH, then FORCE_IDLE; Idle (R111, D10). -/
def hReset (s : State) : Effect (State × FsmState) :=
  .done ((s.sendCmd .flush).sendCmd .forceIdle, .idle)

/-- The end of a byte handler: `CUR <- CUR + 1`, then Stop if `CUR >= LEN`, else the same state again (R106, R108). -/
def advance (again : FsmState) (s : State) : State × FsmState :=
  (s.setCur (s.cur + 1), if s.cur + 1 ≥ s.len then .stop else again)

/-- H_TX (R106): the byte at BUF + CUR goes out in WRITE_DATA. -/
def hTx (s : State) : Effect (State × FsmState) :=
  (bufAccess s).bind fun a => .done (advance .transmitByte (s.sendCmd (.writeData (memRead s.mem a))))

/-- H_RX (R108): the byte of READ_DATA goes to BUF + CUR. `rd` is the data byte of the IRQ being handled, `none` outside one. -/
def hRx (rd : Option Byte) (s : State) : Effect (State × FsmState) :=
  (bufAccess s).bind fun a =>
    .done (advance .receiveByte
      ((periphRead rd s).2.setMem (memWrite (periphRead rd s).2.mem a (periphRead rd s).1)))

/-- H_NACK (R112). -/
def hNack (s : State) : Effect (State × FsmState) := stopBus s

/-- H_ARB (R113). -/
def hArb (s : State) : Effect (State × FsmState) := stopBus s

/-- H_BUSERR (R114). -/
def hBuserr (s : State) : Effect (State × FsmState) := stopBus s

/-- `Handler[q]` (R70). -/
def handler (q : FsmState) (rd : Option Byte) (s : State) : Effect (State × FsmState) :=
  match q with
  | .idle => hIdle s
  | .start => hStart s
  | .stop => hStop s
  | .reset => hReset s
  | .transmitByte => hTx s
  | .receiveByte => hRx rd s
  | .nackReceived => hNack s
  | .arbitrationLost => hArb s
  | .busError => hBuserr s

/-! ### Dispatch -/

/-- The dispatch of state `q`: its code goes to HT, the handler runs once, and what it returns becomes STATE (R100). -/
def dispatchOf (q : FsmState) (run : State → Effect (State × FsmState)) (s : State) : Effect State :=
  (run (s.pushHandler (stateCode q))).bind fun r => .done (r.1.setState r.2)

/-- `Dispatch()` (R100): the handler STATE selects, or Fault(IllegalState) for the codes 9 to 15 (R101). -/
def dispatch (rd : Option Byte) (s : State) : Effect State :=
  match stateOfCode s.state with
  | none => .raise (.illegalState s.state)
  | some q => dispatchOf q (handler q rd) s

/-! ### The meanings of the handlers' rows

Each is one dispatch of that handler outside an IRQ, as LAUNCH_B runs it (R144; log 15). -/

/-- The dispatch of H_IDLE (R103). -/
def execHIdle (s : State) : Host.Outcome State Fault Refusal :=
  operation (dispatchOf .idle hIdle) s

/-- The dispatch of H_START (R104). -/
def execHStart (s : State) : Host.Outcome State Fault Refusal :=
  operation (dispatchOf .start hStart) s

/-- The dispatch of H_STOP (R110). -/
def execHStop (s : State) : Host.Outcome State Fault Refusal :=
  operation (dispatchOf .stop hStop) s

/-- The dispatch of H_RESET (R111). -/
def execHReset (s : State) : Host.Outcome State Fault Refusal :=
  operation (dispatchOf .reset hReset) s

/-- The dispatch of H_TX (R106). -/
def execHTx (s : State) : Host.Outcome State Fault Refusal :=
  operation (dispatchOf .transmitByte hTx) s

/-- The dispatch of H_RX outside an IRQ (R108): the byte read is a free draw. -/
def execHRx (s : State) : Host.Outcome State Fault Refusal :=
  operation (dispatchOf .receiveByte (hRx none)) s

/-- The dispatch of H_NACK (R112). -/
def execHNack (s : State) : Host.Outcome State Fault Refusal :=
  operation (dispatchOf .nackReceived hNack) s

/-- The dispatch of H_ARB (R113). -/
def execHArb (s : State) : Host.Outcome State Fault Refusal :=
  operation (dispatchOf .arbitrationLost hArb) s

/-- The dispatch of H_BUSERR (R114). -/
def execHBuserr (s : State) : Host.Outcome State Fault Refusal :=
  operation (dispatchOf .busError hBuserr) s

end Sys2Proof.Machine
end

