-- ==== Sys2Proof/Machine/EntryPoints.lean ====
section
/-! DEFINITION. The four requests to the block: SET_BUFFER, LAUNCH, IRQ, EXT_RESET (R130 to R153). -/

namespace Sys2Proof.Machine

/-- SET_BUFFER (R146, R147). -/
def setBufferBody (ref n : Nat) (s : State) : Effect State :=
  if isActive s then .raise (.setBufferWhileBusy s.state (portRef s.params ref) (portN s.params n))
  else .done (s.assignBuffer (portRef s.params ref) (portN s.params n))

/-- `SAD <- A ++ D; LASTERR <- 0; STATE <- Start` (R141). -/
def launchSetup (addr : BitVec 7) (read : Bool) (s : State) : State :=
  ((s.setSad (sadOf addr read)).setLastErr 0).setState .start

/-- LAUNCH: a silent no-op while active (R142); else the set-up and one dispatch (R141), or, where ATOMIC_LAUNCH is false, LAUNCH_A
alone, which leaves LAUNCH_B owed (R144; log 12). -/
def launchBody (addr : BitVec 7) (read : Bool) (s : State) : Effect State :=
  if isActive s then .done s
  else if s.params.atomicLaunch then dispatch none (launchSetup addr read s)
  else .done ((launchSetup addr read s).setLaunchesOwed (s.launchesOwed + 1))

/-- IRQ: PEND is cleared, the override comes first, one dispatch second; PeriphRead returns RD (R131, R169, R179). -/
def irqBody (nack arb berr : Bool) (rd : Byte) (s : State) : Effect State :=
  dispatch (some rd) (override nack arb berr s.clearPend)

/-- EXT_RESET: `STATE <- Reset`, then one dispatch (R150). -/
def extResetBody (s : State) : Effect State :=
  dispatch none (s.setState .reset)

/-- The meaning of SET_BUFFER (R146, R147). -/
def execSetBuffer (ref n : Nat) (s : State) : Host.Outcome State Fault Refusal :=
  operation (setBufferBody ref n) s

/-- The meaning of LAUNCH (R141, R142, R144). -/
def execLaunch (addr : BitVec 7) (read : Bool) (s : State) : Host.Outcome State Fault Refusal :=
  operation (launchBody addr read) s

/-- The meaning of IRQ (R131). -/
def execIrq (nack arb berr : Bool) (rd : Byte) (s : State) : Host.Outcome State Fault Refusal :=
  operation (irqBody nack arb berr rd) s

/-- The meaning of EXT_RESET (R150). -/
def execExtReset (s : State) : Host.Outcome State Fault Refusal :=
  operation extResetBody s

end Sys2Proof.Machine
end

