-- ==== Sys2Proof/Machine/Dispatch.lean ====
section
/-! DEFINITION. The meaning of every row of the opcode table: one arm per constructor of Instr. -/

namespace Sys2Proof.Machine

def exec (i : Instr) (s : State) : Host.Outcome State Fault Refusal :=
  match i with
  | .setBuffer ref n => Sys2Proof.Machine.execSetBuffer ref n s
  | .launch addr read => Sys2Proof.Machine.execLaunch addr read s
  | .irq nack arb berr rd => Sys2Proof.Machine.execIrq nack arb berr rd s
  | .extReset => Sys2Proof.Machine.execExtReset s
  | .hIdle => Sys2Proof.Machine.execHIdle s
  | .hStart => Sys2Proof.Machine.execHStart s
  | .hStop => Sys2Proof.Machine.execHStop s
  | .hReset => Sys2Proof.Machine.execHReset s
  | .hTx => Sys2Proof.Machine.execHTx s
  | .hRx => Sys2Proof.Machine.execHRx s
  | .hNack => Sys2Proof.Machine.execHNack s
  | .hArb => Sys2Proof.Machine.execHArb s
  | .hBuserr => Sys2Proof.Machine.execHBuserr s

end Sys2Proof.Machine
end

