-- ==== Sys2Proof/Machine/Events.lean ====
section
/-! DEFINITION. The moves of the environment: which comes next (R169, R178), which may be made (R172, R181), host access to
caller memory and registers (R28, R56, R57), and what each move does. -/

namespace Sys2Proof.Machine

/-! ### Host access -/

/-- `HostWrite(a, v)`: a fault inside the buffer region while a transaction is active, else a write (R56); stuck where MemAdmit rejects
the address (R53; log 17). -/
def hostWriteBody (a : Nat) (v : Byte) (s : State) : Effect State :=
  if isActive s && inBuffer s a then .raise (.bufferWriteWhileBusy s.state a)
  else if memAdmit s.params a then .done (s.setMem (memWrite s.mem a v))
  else .stuck a

/-- `HostRead(a)`: no side effect (R57); stuck where MemAdmit rejects the address (R53; log 17). -/
def hostReadBody (a : Nat) (s : State) : Effect State :=
  if memAdmit s.params a then .done s else .stuck a

/-- The byte a host read returns, where the read has a step (R57). -/
def peek (s : State) (a : Nat) : Option Byte :=
  if memAdmit s.params a then some (memRead s.mem a) else none

/-- The value a register read returns; LASTERR only where it is present (R26, R28). -/
def readReg (s : State) (r : Reg) : Option Nat :=
  match r with
  | .sad => some s.sad.toNat
  | .buf => some s.buf
  | .len => some s.len
  | .cur => some s.cur
  | .state => some s.state.toNat
  | .lastErr => if s.params.hasLastError then some s.lastErr.toNat else none

/-! ### The next move -/

/-- The move that comes next: the first of `inputs`, or a draw of the environment where none is listed (R169, R178; log 1, log 2). -/
def nextEvent (s : State) : Event :=
  match s.inputs with
  | e :: _ => e
  | [] => Config.environment s.draws

/-- The state with the next move taken. -/
def takeEvent (s : State) : State :=
  match s.inputs with
  | _ :: rest => s.setInputs rest
  | [] => s.nextDraw

/-- A request word from `ctx`: decoded (R78), refused with REFUSED set and nothing else changed (R79), or run. A context has no move
for an operation of the other (R172; log 13). -/
def runRequest (ctx : Context) (w : ReqWord) (ref n : Nat) (s : State) : Host.Outcome State Fault Refusal :=
  match decodeRequest w ref n with
  | .error r => .next (s.markRefused r)
  | .ok i => if issuer i = ctx then exec i s else .refused (.noMove (.request ctx w ref n))

/-- LAUNCH_B: one dispatch of whatever STATE holds (R144), where a LAUNCH owes it: the state decoder reads the handler (R81), and
the codes 9 to 15 fault (R101). A handler that is read takes the debt, also where it then faults; a code without one leaves the
debt (log 12). -/
def runLaunchB (s : State) : Host.Outcome State Fault Refusal :=
  if s.launchesOwed = 0 then .refused (.noMove .launchB)
  else
    match decodeState s.state with
    | some i => exec i (s.setLaunchesOwed (s.launchesOwed - 1))
    | none => .next (s.markFault (.illegalState s.state))

/-- What a move does to a block that runs. -/
def runEvent (e : Event) (s : State) : Host.Outcome State Fault Refusal :=
  match e with
  | .quiet => .next s
  | .request ctx w ref n => runRequest ctx w ref n s
  | .launchB => runLaunchB s
  | .hostWrite a v => finish s (hostWriteBody a v s)
  | .hostRead a => finish s (hostReadBody a s)
  | .hostReadReg _ => .next s

/-- One move: none when FAULT is set, for the block and for the host (R165); none when REFUSED is set, for the block (R33, R79, R130); else
the next event's effect on the state with that event taken.
DESIGN CHOICE, safe (log 23): a poke, a peek and a register read have no step either once REFUSED is set. R33 and R79 stop the block only, and
R165 speaks of FAULT only, so the spec leaves the host's accesses after a refusal open. -/
def runNext (s : State) : Host.Outcome State Fault Refusal :=
  whenRunning s fun s => runEvent (nextEvent s) (takeEvent s)

/-! ### Placing an instruction where the next step takes it (log 16) -/

/-- The context that issues a request word: the interrupt mechanism for the op code of IRQ, else the foreground (R172). -/
def wordContext (w : ReqWord) : Context :=
  if bitField w 0 4 = 3 then .interrupt else .foreground

/-- The bits of an instruction where the next step takes them: a request word as the next move of its context; a state code in STATE,
with an owed LAUNCH_B as the next move, which dispatches it. -/
def placeNext (s : State) (e : Encoded) : State :=
  match e with
  | .req w ref n => s.setInputs (.request (wordContext w) w ref n :: s.inputs)
  | .st c => { (s.setLaunchesOwed (s.launchesOwed + 1)).setInputs (.launchB :: s.inputs) with state := c }

/-- The same for the opcode table's numbering; a number that spells no bits changes nothing. -/
def placeTableWord (s : State) (nbits w : Nat) : State :=
  match tableBits nbits w with
  | some e => placeNext s e
  | none => s

end Sys2Proof.Machine
end

