-- ==== Sys2Proof/Machine/Step.lean ====
section
/-! DEFINITION. One step of the machine: one event of the total order of R64. -/

namespace Sys2Proof.Machine

/-- One step: the next move of host or interrupt mechanism, and its effect on the block. -/
def step (s : State) : Host.Outcome State Fault Refusal := Sys2Proof.Machine.runNext s

/-- `s` with the instruction that the opcode table numbers `w` where `step` takes its next move (log 16). -/
def State.withFetchWord (s : State) (nbits w : Nat) : State := Sys2Proof.Machine.placeTableWord s nbits w

end Sys2Proof.Machine
end

