-- ==== Sys2Proof/Machine/Assembler.lean ====
section
/-! DEFINITION. The text form of request sequences (R84), its two pseudo-instructions (R85) and the one refusal that belongs to
it, AddressRange (R80, D23). The assembler is no part of the block: it makes the moves that `State.inputs` lists. -/

namespace Sys2Proof.Machine

/-- One line of the text form (R84, R85). A `launch` address is a number here, so that it can be out of range (R80). -/
inductive AsmLine where
  | setBuffer (ref n : Nat)
  | launch (addr : Nat) (read : Bool)
  | irq (nack arb berr : Bool) (rd : Byte)
  | extReset
  | poke (addr : Nat) (v : Byte)
  | peek (addr : Nat)
  | writeTxn (addr ref n : Nat)
  | readTxn (addr ref n : Nat)
  deriving DecidableEq, Repr

/-- Why a text is not assembled: it does not have the form of R84 (log 21), or it is refused (R80). -/
inductive AsmError where
  | malformed
  | refused (r : RefusalReason)
  deriving DecidableEq, Repr

/-- The move that issues an instruction from its context (R172). A handler's row has no request word. -/
def requestEvent (i : Instr) : Event :=
  match encode i with
  | .req w ref n => .request (issuer i) w ref n
  | .st _ => .quiet

/-- `set_buffer REF, N` (R84). -/
def asmSetBuffer (ref n : Nat) : List Event := [requestEvent (.setBuffer ref n)]

/-- `launch A, w` or `launch A, r`; above 0x7F it cannot be encoded (R84, R80). -/
def asmLaunch (addr : Nat) (read : Bool) : Except RefusalReason (List Event) :=
  if addr > 0x7F then .error .addressRange
  else .ok [requestEvent (.launch (BitVec.ofNat 7 addr) read)]

/-- A line's moves (R84); the pseudo-instructions are a `set_buffer` and then a `launch` (R85).
DESIGN CHOICE, safe (log 24): where the `launch` of a pseudo-instruction is refused with AddressRange, its `set_buffer` makes no move either. R80
refuses the `launch` and says nothing of what stands beside it. -/
def assemble (l : AsmLine) : Except RefusalReason (List Event) :=
  match l with
  | .setBuffer ref n => .ok (asmSetBuffer ref n)
  | .launch addr read => asmLaunch addr read
  | .irq nack arb berr rd => .ok [requestEvent (.irq nack arb berr rd)]
  | .extReset => .ok [requestEvent .extReset]
  | .poke addr v => .ok [.hostWrite addr v]
  | .peek addr => .ok [.hostRead addr]
  | .writeTxn addr ref n => (asmLaunch addr false).map (asmSetBuffer ref n ++ ·)
  | .readTxn addr ref n => (asmLaunch addr true).map (asmSetBuffer ref n ++ ·)

/-! ### Reading the text (log 21) -/

/-- A token: a comma, or a word without spaces and commas. -/
inductive Token where
  | comma
  | word (w : List Char)
  deriving DecidableEq, Repr

/-- The word gathered so far, if any, before more tokens. -/
def flushWord (acc : List Char) (rest : List Token) : List Token :=
  if acc.isEmpty then rest else .word acc :: rest

/-- The tokens of a line; `;` starts a comment (R84). `acc` is the word being gathered. -/
def tokens (acc : List Char) (l : List Char) : List Token :=
  match l with
  | [] => flushWord acc []
  | c :: cs =>
    if c = ';' then flushWord acc []
    else if c = ',' then flushWord acc (.comma :: tokens [] cs)
    else if c = ' ' || c = '\t' || c = '\r' then flushWord acc (tokens [] cs)
    else tokens (acc ++ [c]) cs

/-- The value of a digit in a base up to 16. -/
def digitValue (base : Nat) (c : Char) : Option Nat :=
  let v :=
    if '0' ≤ c && c ≤ '9' then c.toNat - '0'.toNat
    else if 'a' ≤ c && c ≤ 'f' then c.toNat - 'a'.toNat + 10
    else if 'A' ≤ c && c ≤ 'F' then c.toNat - 'A'.toNat + 10
    else base
  if v < base then some v else none

/-- The digits of a number, most significant first, after the value `acc`. -/
def digitsValue (base acc : Nat) (l : List Char) : Option Nat :=
  match l with
  | [] => some acc
  | c :: cs => (digitValue base c).bind fun d => digitsValue base (acc * base + d) cs

/-- A number, decimal or `0x` hexadecimal (R84). -/
def number (w : List Char) : Option Nat :=
  match w with
  | [] => none
  | '0' :: 'x' :: d :: ds => digitsValue 16 0 (d :: ds)
  | d :: ds => digitsValue 10 0 (d :: ds)

/-- A number that fits a byte. -/
def byteValue (w : List Char) : Option Byte :=
  (number w).bind fun v => if v < 256 then some (BitVec.ofNat 8 v) else none

/-- The operands of `irq` read so far: the flags, and RD where it was given. -/
structure IrqOperands where
  nack : Bool
  arb : Bool
  berr : Bool
  rd : Option Byte
  deriving DecidableEq, Repr

/-- The byte of `rd=BYTE`. -/
def rdValue (w : List Char) : Option Byte :=
  match w with
  | 'r' :: 'd' :: '=' :: v => byteValue v
  | _ => none

/-- The operands of `irq`: flags in any order, each at most once (R84).
DESIGN CHOICE, safe (log 21): `rd=BYTE` may stand at any place among them, at most once. R84's grammar writes it last and says of the flags only
that their order is free. -/
def irqOperands (acc : IrqOperands) (l : List Token) : Option IrqOperands :=
  match l with
  | [] => some acc
  | .comma :: _ => none
  | .word w :: rest =>
    if w = "nack".toList then
      if acc.nack then none else irqOperands { acc with nack := true } rest
    else if w = "arb".toList then
      if acc.arb then none else irqOperands { acc with arb := true } rest
    else if w = "berr".toList then
      if acc.berr then none else irqOperands { acc with berr := true } rest
    else if acc.rd.isSome then none
    else (rdValue w).bind fun v => irqOperands { acc with rd := some v } rest

/-- The direction operand of `launch` (R84). -/
def directionValue (w : List Char) : Option Bool :=
  if w = "w".toList then some false else if w = "r".toList then some true else none

/-- Operands separated by commas. -/
def operandWords (l : List Token) : Option (List (List Char)) :=
  match l with
  | [.word w] => some [w]
  | .word w :: .comma :: rest => (operandWords rest).map (w :: ·)
  | _ => none

/-- `A, REF, N` of the pseudo-instructions (R85). -/
def threeNumbers (l : List Token) : Option (Nat × Nat × Nat) :=
  match operandWords l with
  | some [a, b, c] =>
    (number a).bind fun x => (number b).bind fun y => (number c).map fun z => (x, y, z)
  | _ => none

/-- A line that begins with a keyword (R84, R85). -/
def parseKeyword (k : List Char) (ops : List Token) : Option AsmLine :=
  if k = "set_buffer".toList then
    match operandWords ops with
    | some [r, n] => (number r).bind fun x => (number n).map fun y => .setBuffer x y
    | _ => none
  else if k = "launch".toList then
    match operandWords ops with
    | some [a, d] => (number a).bind fun x => (directionValue d).map fun y => .launch x y
    | _ => none
  else if k = "irq".toList then
    (irqOperands ⟨false, false, false, none⟩ ops).map fun o => .irq o.nack o.arb o.berr (o.rd.getD 0)
  else if k = "ext_reset".toList then
    if ops.isEmpty then some .extReset else none
  else if k = "poke".toList then
    match operandWords ops with
    | some [a, v] => (number a).bind fun x => (byteValue v).map fun y => .poke x y
    | _ => none
  else if k = "peek".toList then
    match operandWords ops with
    | some [a] => (number a).map fun x => .peek x
    | _ => none
  else if k = "write_txn".toList then
    (threeNumbers ops).map fun t => .writeTxn t.1 t.2.1 t.2.2
  else if k = "read_txn".toList then
    (threeNumbers ops).map fun t => .readTxn t.1 t.2.1 t.2.2
  else none

/-- The moves of one line of text; an empty line or a comment makes none. -/
def assembleLine (l : List Char) : Except AsmError (List Event) :=
  match tokens [] l with
  | [] => .ok []
  | .comma :: _ => .error .malformed
  | .word k :: ops =>
    match parseKeyword k ops with
    | none => .error .malformed
    | some a =>
      match assemble a with
      | .ok es => .ok es
      | .error r => .error (.refused r)

/-- The moves of several lines.
DESIGN CHOICE, safe (log 24): where a line is malformed or refused, no line of the text makes a move, neither those before it nor those after it; the
answer is the first such line's error. -/
def assembleLines (ls : List (List Char)) : Except AsmError (List Event) :=
  match ls with
  | [] => .ok []
  | l :: rest =>
    match assembleLine l with
    | .error e => .error e
    | .ok es => (assembleLines rest).map (es ++ ·)

/-- The lines of a text. `acc` is the line being gathered. -/
def textLines (acc : List Char) (t : List Char) : List (List Char) :=
  match t with
  | [] => [acc]
  | c :: cs => if c = '\n' then acc :: textLines [] cs else textLines (acc ++ [c]) cs

/-- The moves of a text (R84): all of them, or the error of the first line that is not assembled (log 24). -/
def assembleText (t : List Char) : Except AsmError (List Event) :=
  assembleLines (textLines [] t)

/-- `s` with more moves after those already listed: a request sequence loaded from outside the machine (log 1). -/
def State.load (s : State) (es : List Event) : State := s.setInputs (s.inputs ++ es)

end Sys2Proof.Machine
end

