-- ==== Sys2Proof/Safety.lean ====
section
/-! DEFINITION. The terms claims use: the invariants of the machine (R36 to R38, R180), the premise on the peripheral (R179) and the
fairness premise (R216), and runs. -/

namespace Sys2Proof.Machine

/-! ### Running, and memory as its bytes -/

/-- Neither mark is set: the block has steps (R130). -/
abbrev State.Running (s : State) : Prop := s.fault = none ∧ s.refused = none

/-- Every byte of caller memory reads the same. -/
def SameBytes (s t : State) : Prop := ∀ a, memRead t.mem a = memRead s.mem a

/-- Every byte of caller memory reads the same but, where `store` gives an address, the byte there. -/
def SameBytesBut (store : Effect Nat) (s t : State) : Prop :=
  ∀ a, store ≠ .done a → memRead t.mem a = memRead s.mem a

/-! ### Well-formed states -/

/-- The registers fit their widths, CUR does not pass LEN (R37), STATE is a legal code (R25), LASTERR is zero where it is absent
(R26). -/
abbrev State.RegsWf (s : State) : Prop :=
  s.params.wf = true ∧ s.buf < 2 ^ s.params.bufAddrBits ∧ s.len < 2 ^ s.params.lenBits ∧ s.cur ≤ s.len ∧
    s.state.toNat ≤ 8 ∧ (s.params.hasLastError = false → s.lastErr = 0)

/-- Memory is in canonical form and lists only addresses that memory backs (R50, R53). -/
abbrev State.MemWf (s : State) : Prop :=
  s.mem.wf ∧ ∀ c ∈ s.mem, memAdmit s.params c.1 = true

/-- A well-formed state. -/
abbrev State.Wf (s : State) : Prop := s.RegsWf ∧ s.MemWf

/-- Between operations STATE is Idle, TransmitByte, ReceiveByte or Stop; Start is seen only while a LAUNCH_B is owed (R38). -/
abbrev State.Settled (s : State) : Prop :=
  s.state = stateCode .idle ∨ s.state = stateCode .transmitByte ∨ s.state = stateCode .receiveByte ∨
    s.state = stateCode .stop ∨ (s.state = stateCode .start ∧ 0 < s.launchesOwed)

/-- With ATOMIC_LAUNCH true no LAUNCH_B is ever owed (R144). -/
abbrev State.AtomicOwesNone (s : State) : Prop :=
  s.params.atomicLaunch = true → s.launchesOwed = 0

/-- STATE = Idle implies PEND = 0 (R180). -/
abbrev State.IdleOwesNone (s : State) : Prop :=
  s.state = stateCode .idle → s.pend = false

/-- An active transaction is owed an interrupt: the other direction of R180, for ATOMIC_LAUNCH true. -/
abbrev State.ActiveOwesOne (s : State) : Prop :=
  s.state ≠ stateCode .idle → s.pend = true

/-! ### The peripheral (R179) -/

/-- The move delivers an IRQ to the block. -/
def deliversIrq (e : Event) : Bool :=
  match e with
  | .request .interrupt w ref n =>
    match decodeRequest w ref n with
    | .ok (.irq _ _ _ _) => true
    | _ => false
  | _ => false

/-- PeriphOK, for the next step: an IRQ is delivered only when PEND = 1 (R179). A premise of a claim, no part of the machine. -/
def PeriphOK (s : State) : Prop := deliversIrq (nextEvent s) = true → s.pend = true

/-! ### Runs -/

/-- An endless run under the schedule `ev` of moves: step `k` takes the move `ev k` and gives the next state. -/
def IsRun (ev : Nat → Event) (run : Nat → State) : Prop :=
  ∀ k, step { run k with inputs := [ev k] } = .next (run (k + 1))

/-- Weak fairness on PEND = 1: from no point on is an interrupt owed for ever and never delivered (R216). -/
def FairDelivery (ev : Nat → Event) (run : Nat → State) : Prop :=
  ∀ k, (∀ j, k ≤ j → (run j).pend = true) → ∃ j, k ≤ j ∧ deliversIrq (ev j) = true

/-- A sequence of IRQs without a flag, one for each byte of the list, which is its RD: what `exec` does one after another. -/
def cleanIrqs (rds : List Byte) (s : State) : Host.Outcome State Fault Refusal :=
  match rds with
  | [] => .next s
  | rd :: rest =>
    match exec (.irq false false false rd) s with
    | .next t => cleanIrqs rest t
    | .fault r => .fault r
    | .refused r => .refused r

/-- The host's order for one transaction (R206): SET_BUFFER, LAUNCH, then the IRQs without a flag. -/
def transaction (ref n : Nat) (addr : BitVec 7) (read : Bool) (rds : List Byte) (s : State) :
    Host.Outcome State Fault Refusal :=
  match exec (.setBuffer ref n) s with
  | .next t =>
    match exec (.launch addr read) t with
    | .next u => cleanIrqs rds u
    | .fault r => .fault r
    | .refused r => .refused r
  | .fault r => .fault r
  | .refused r => .refused r

end Sys2Proof.Machine
end

