-- ==== Sys2Proof/Certificates/Slice0/Obligations.lean ====
section
/-! DEFINITION. The statements about the machine. Each docstring names the rules of spec/ it rests on. -/

open Sys2Proof Sys2Proof.Machine

/-! ### Encoding -/

/-- R70, R73 to R76, R78, R81: decoding what the encoder writes gives the instruction back, for every operand value. -/
def Obligations.DecodeOfEncodeIsTheInstruction : Prop :=
  ∀ i : Instr, decode (encode i) = .instr i

/-- R78, R73 to R76: a request word that is accepted is the encoder's word of what it decodes to; SET_BUFFER takes the operand ports, the
others ignore them. -/
def Obligations.AcceptedWordIsTheEncodersWord : Prop :=
  ∀ (w : ReqWord) (ref n : Nat) (i : Instr), decodeRequest w ref n = .ok i →
    (i = .setBuffer ref n ∧ encode i = .req w ref n) ∨
      ((∀ r m, i ≠ .setBuffer r m) ∧ encode i = .req w 0 0)

/-- R78: a word is accepted exactly when it fits one of the four match/mask pairs of the opcode table. -/
def Obligations.AcceptedExactlyByMatchAndMask : Prop :=
  ∀ (w : ReqWord) (ref n : Nat),
    (∃ i, decodeRequest w ref n = .ok i) ↔
      (w &&& 0xFFFF#16 = 0x0001#16 ∨ w &&& 0xF00F#16 = 0x0002#16 ∨ w &&& 0x008F#16 = 0x0003#16 ∨
        w &&& 0xFFFF#16 = 0x0004#16)

/-- R78, R80: the reason of a refusal is ReservedOp exactly for the op codes 0 and 5 to 15, and ReservedBits exactly for a must-be-zero
bit of one of the four operations. -/
def Obligations.RefusalReasonOfEveryWord : Prop :=
  ∀ (w : ReqWord) (ref n : Nat),
    (decodeRequest w ref n = .error .reservedOp ↔ (w.toNat % 16 = 0 ∨ 5 ≤ w.toNat % 16)) ∧
    (decodeRequest w ref n = .error .reservedBits ↔
      ((w.toNat % 16 = 1 ∧ w.toNat / 16 ≠ 0) ∨ (w.toNat % 16 = 2 ∧ w.toNat / 4096 ≠ 0) ∨
        (w.toNat % 16 = 3 ∧ w.toNat / 128 % 2 = 1) ∨ (w.toNat % 16 = 4 ∧ w.toNat / 16 ≠ 0))) ∧
    decodeRequest w ref n ≠ .error .addressRange

/-- R86, R70: words of each request, and codes of handlers, written out from the encoding tables, decode to what they stand for. -/
def Obligations.WrittenOutWordsDecode : Prop :=
  decode (.req 0b0000000000000001 0x100 2) = .instr (.setBuffer 0x100 2) ∧
  decode (.req 0b0000110100000010 0 0) = .instr (.launch 0x50 true) ∧
  decode (.req 0b0000001000000010 0 0) = .instr (.launch 0x20 false) ∧
  decode (.req 0b0000000100000011 0 0) = .instr (.irq false false false 0x01) ∧
  decode (.req 0b0000000000010011 0 0) = .instr (.irq true false false 0) ∧
  decode (.req 0b0000000000100011 0 0) = .instr (.irq false true false 0) ∧
  decode (.req 0b0000000001000011 0 0) = .instr (.irq false false true 0) ∧
  decode (.req 0b0000000000000100 0 0) = .instr .extReset ∧
  decode (.st 0b0100) = .instr .hTx ∧
  decode (.st 0b0101) = .instr .hRx ∧
  decode (.st 0b1000) = .instr .hBuserr

/-- R70, R81: the codes 0 to 8 select the nine handlers in the order of the list, and 9 to 15 select none. -/
def Obligations.StateCodesSelectTheHandlers : Prop :=
  [0, 1, 2, 3, 4, 5, 6, 7, 8].map (fun c => decodeState (BitVec.ofNat 4 c)) =
    [some .hIdle, some .hStart, some .hStop, some .hReset, some .hTx, some .hRx, some .hNack, some .hArb,
      some .hBuserr] ∧
  ∀ c : StCode, decodeState c = none ↔ 9 ≤ c.toNat

/-- R84, R80, D23: the text `launch A, D` becomes the foreground's request word of that LAUNCH for A up to 0x7F, and is refused with
AddressRange above. -/
def Obligations.AssembledLaunchDecodesToIt : Prop :=
  ∀ (a : Nat) (d : Bool),
    (0x7F < a → assemble (.launch a d) = .error .addressRange) ∧
    (a ≤ 0x7F → ∃ w : ReqWord, assemble (.launch a d) = .ok [.request .foreground w 0 0] ∧
      w.toNat = (if d then 2048 else 0) + 16 * a + 2 ∧
      decodeRequest w 0 0 = .ok (.launch (BitVec.ofNat 7 a) d))

/-! ### One step -/

/-- R64, R78, R172: when the next move is a request word that decodes to an instruction its context may issue, the step is `exec` of
that instruction, on the state with the move taken (`inputs` is the model's own field, log 1). -/
def Obligations.StepRunsTheDecodedRequest : Prop :=
  ∀ (s : State) (ctx : Context) (w : ReqWord) (ref n : Nat) (rest : List Event) (i : Instr),
    s.Running → s.inputs = .request ctx w ref n :: rest → decodeRequest w ref n = .ok i → issuer i = ctx →
    step s = exec i { s with inputs := rest }

/-- R144, R81, R100: when the next move is an owed LAUNCH_B, the step is `exec` of the handler that the state decoder reads from STATE,
on the state with the move taken and one LAUNCH_B fewer owed (log 12). -/
def Obligations.StepRunsTheHandlerOfStateAtLaunchB : Prop :=
  ∀ (s : State) (rest : List Event) (i : Instr),
    s.Running → s.inputs = .launchB :: rest → 0 < s.launchesOwed → decodeState s.state = some i →
    step s = exec i { s with inputs := rest, launchesOwed := s.launchesOwed - 1 }

/-- R178, R169: with no move listed the step is that of whatever move the environment draws (the model's choice, log 2). -/
def Obligations.StepTakesTheEnvironmentsDraw : Prop :=
  ∀ s : State, s.Running → s.inputs = [] →
    step s = step { s with inputs := [Config.environment s.draws], draws := s.draws + 1 }

/-- R79: a refused request sets REFUSED to its reason and changes nothing else, and the block takes no further step (that the next state
exists and the one after is a refusal is the model's form, log 5; that the one after is one for a move of the host too is the model's choice,
log 23, DESIGN CHOICE). -/
def Obligations.RefusedRequestSetsRefusedOnly : Prop :=
  ∀ (s : State) (ctx : Context) (w : ReqWord) (ref n : Nat) (rest : List Event) (r : RefusalReason),
    s.Running → s.inputs = .request ctx w ref n :: rest → decodeRequest w ref n = .error r →
    step s = .next { s with inputs := rest, refused := some r } ∧
    step { s with inputs := rest, refused := some r } = .refused (.requestRefused r)

/-- R165, R33, R130: once FAULT is set no operation and no move of the host has a step, and once REFUSED is set the block has none. That a move
of the host has none either once REFUSED is set is the model's choice (log 23, DESIGN CHOICE). -/
def Obligations.NothingStepsOnceAMarkIsSet : Prop :=
  ∀ (s : State) (i : Instr),
    (∀ r, s.fault = some r → step s = .fault (.faulted r) ∧ exec i s = .fault (.faulted r)) ∧
    (∀ r, s.fault = none → s.refused = some r →
      step s = .refused (.requestRefused r) ∧ exec i s = .refused (.requestRefused r))

/-- R167, R130: an operation that raises a fault sets FAULT and changes nothing else.
A fault is a next state with FAULT set (log 5, DEDUCED). -/
def Obligations.FaultingOperationChangesFaultOnly : Prop :=
  ∀ (s t : State) (i : Instr), exec i s = .next t → t.fault ≠ none →
    ∃ r, t = { s with fault := some r }

/-- R172, R181: the foreground has no IRQ move and the interrupt mechanism no other (a refusal by name, log 13). -/
def Obligations.NoContextMakesTheOthersMove : Prop :=
  ∀ (s : State) (ctx : Context) (w : ReqWord) (ref n : Nat) (rest : List Event) (i : Instr),
    s.Running → s.inputs = .request ctx w ref n :: rest → decodeRequest w ref n = .ok i → issuer i ≠ ctx →
    step s = .refused (.noMove (.request ctx w ref n))

/-! ### SET_BUFFER -/

/-- R146, R147, R166: SET_BUFFER (op code 1) while idle stores the buffer reference and the length and resets the cursor to 0; while a
transaction is active it raises Fault(SetBufferWhileBusy). Nothing else changes.
The spec's own choices here are the request word (D17), the fault while active (D12) and its recorded information (D12, D28).
A fault is a next state with FAULT set (log 5, DEDUCED). -/
def Obligations.SetBufferStoresReferenceAndLength : Prop :=
  ∀ (s : State) (ref n : Nat), s.Running → (Instr.setBuffer ref n).wf s.params = true →
    encode (.setBuffer ref n) = .req 0x0001 ref n ∧
    (s.state = stateCode .idle → exec (.setBuffer ref n) s = .next { s with buf := ref, len := n, cur := 0 }) ∧
    (s.state ≠ stateCode .idle →
      exec (.setBuffer ref n) s = .next { s with fault := some (.setBufferWhileBusy s.state ref n) })

/-- The model's choice (log 4): the operand ports carry the low BUF_ADDR_BITS and LEN_BITS bits of the numbers given (R72). -/
def Obligations.OperandPortsCarryTheirWidth : Prop :=
  ∀ (s : State) (ref n : Nat),
    exec (.setBuffer ref n) s =
      exec (.setBuffer (ref % 2 ^ s.params.bufAddrBits) (n % 2 ^ s.params.lenBits)) s

/-- R146, R36: the frame of SET_BUFFER, completed or faulting: it writes BUF, LEN, CUR and FAULT only, and no byte of memory. -/
def Obligations.SetBufferFrame : Prop :=
  ∀ (s t : State) (ref n : Nat), exec (.setBuffer ref n) s = .next t →
    t.sad = s.sad ∧ t.state = s.state ∧ t.lastErr = s.lastErr ∧ t.refused = s.refused ∧ t.ct = s.ct ∧ t.ht = s.ht ∧
    t.pend = s.pend ∧ t.launchesOwed = s.launchesOwed ∧ t.inputs = s.inputs ∧ t.draws = s.draws ∧
    t.params = s.params ∧ SameBytes s t

/-! ### LAUNCH -/

/-- R141, R82, R104, R145: with ATOMIC_LAUNCH, a LAUNCH from idle stores SAD, clears LASTERR where present, runs H_START in the same step,
and ends in TransmitByte for a write and ReceiveByte for a read. Its
PEND: R179 of 60_exceptions.md section 7, kept in State (log 11, DEDUCED). -/
def Obligations.LaunchFromIdleIssuesTheAddress : Prop :=
  ∀ (s : State) (a : BitVec 7) (d : Bool), s.Running → s.params.atomicLaunch = true → s.state = stateCode .idle →
    exec (.launch a d) s = .next
      { s with
        sad := a ++ BitVec.ofBool d
        lastErr := if s.params.hasLastError then 0 else s.lastErr
        state := if d then stateCode .receiveByte else stateCode .transmitByte
        ht := s.ht ++ [stateCode .start]
        ct := s.ct ++ [.issueAddr (a ++ BitVec.ofBool d)]
        pend := true }

/-- R142: a LAUNCH while a transaction is active is a silent no-op. -/
def Obligations.LaunchWhileActiveChangesNothing : Prop :=
  ∀ (s : State) (a : BitVec 7) (d : Bool), s.Running → s.state ≠ stateCode .idle →
    exec (.launch a d) s = .next s

/-- R144: without ATOMIC_LAUNCH, a LAUNCH from idle is LAUNCH_A: SAD, LASTERR and STATE = Start are written, no handler runs, and one more
LAUNCH_B is owed (the count is the model's, log 12). -/
def Obligations.SplitLaunchStopsAtStart : Prop :=
  ∀ (s : State) (a : BitVec 7) (d : Bool), s.Running → s.params.atomicLaunch = false → s.state = stateCode .idle →
    exec (.launch a d) s = .next
      { s with
        sad := a ++ BitVec.ofBool d
        lastErr := if s.params.hasLastError then 0 else s.lastErr
        state := stateCode .start
        launchesOwed := s.launchesOwed + 1 }

/-- R144, R210: an IRQ between the halves of a split write LAUNCH runs H_START, and LAUNCH_B then sends a data byte though no interrupt
came. It holds however many LAUNCH_Bs are already owed, and leaves as many: the count, and LAUNCH_B as a move of its own, are the model's
(log 12, DEDUCED), and the moves are the first of `inputs` (log 1, DESIGN CHOICE). -/
def Obligations.InterleavedLaunchSendsAByteEarly : Prop :=
  ∀ (s : State) (a : BitVec 7) (rd : Byte) (w : ReqWord) (rest : List Event),
    s.Running → s.params.atomicLaunch = false → s.state = stateCode .idle → s.cur < s.len →
    memAdmit s.params (s.buf + s.cur) = true →
    encode (.launch a false) = .req w 0 0 →
    s.inputs = .request .foreground w 0 0 :: .request .interrupt (irqWord false false false rd) 0 0 :: .launchB :: rest →
    ∃ s1 s2 s3, step s = .next s1 ∧ step s1 = .next s2 ∧ step s2 = .next s3 ∧
      s1.state = stateCode .start ∧ s1.ct = s.ct ∧
      s2.state = stateCode .transmitByte ∧ s2.ct = s.ct ++ [.issueAddr (a ++ BitVec.ofBool false)] ∧
      s3.ct = s.ct ++ [.issueAddr (a ++ BitVec.ofBool false), .writeData (memRead s.mem (s.buf + s.cur))] ∧
      s3.cur = s.cur + 1 ∧ s3.ht = s.ht ++ [stateCode .start, stateCode .transmitByte] ∧
      s3.launchesOwed = s.launchesOwed

/-- R141, R143: the frame of LAUNCH: BUF, LEN, CUR, both marks and every byte of memory stay. -/
def Obligations.LaunchFrame : Prop :=
  ∀ (s t : State) (a : BitVec 7) (d : Bool), exec (.launch a d) s = .next t →
    t.buf = s.buf ∧ t.len = s.len ∧ t.cur = s.cur ∧ t.fault = s.fault ∧ t.refused = s.refused ∧
    t.inputs = s.inputs ∧ t.draws = s.draws ∧ t.params = s.params ∧ SameBytes s t ∧
    (s.params.hasLastError = false → t.lastErr = s.lastErr) ∧
    (s.params.atomicLaunch = true → t.launchesOwed = s.launchesOwed)

/-! ### IRQ -/

/-- R132: the override sets STATE for each flag that is set, in the order NACK, arbitration lost, bus error, the last match winning;
LASTERR takes the code of the forced state where it is present; nothing else changes. -/
def Obligations.OverrideLastMatchWins : Prop :=
  ∀ (s : State) (k l b : Bool),
    override k l b s =
      { s with
        state :=
          if b then stateCode .busError else if l then stateCode .arbitrationLost
          else if k then stateCode .nackReceived else s.state
        lastErr :=
          if s.params.hasLastError then (if b then 3 else if l then 2 else if k then 1 else s.lastErr)
          else s.lastErr }

/-- R136, R133, R169, R112 to R114: in every state, an IRQ with a flag set runs the forced error state's handler, sends one ISSUE_STOP and ends
in Idle in the same step; the flag pre-empts whatever STATE held. Its
PEND: R179 of 60_exceptions.md section 7, kept in State (log 11, DEDUCED). -/
def Obligations.IrqWithAFlagEndsIdle : Prop :=
  ∀ (s : State) (k l b : Bool) (rd : Byte), s.Running → (k || l || b) = true →
    exec (.irq k l b rd) s = .next
      { s with
        state := stateCode .idle
        lastErr :=
          if s.params.hasLastError then (if b then 3 else if l then 2 else 1) else s.lastErr
        ht := s.ht ++
          [if b then stateCode .busError else if l then stateCode .arbitrationLost else stateCode .nackReceived]
        ct := s.ct ++ [.issueStop]
        pend := false }

/-- R131, R103, R110: without a flag, an IRQ that finds the block idle only runs H_IDLE, and one that finds Stop sends ISSUE_STOP and ends in
Idle. Its PEND: R179 of 60_exceptions.md section 7, kept in State (log 11, DEDUCED):
the delivery alone clears it, whether or not the premise PeriphOK is taken. -/
def Obligations.IrqWithoutAFlagInIdleOrStop : Prop :=
  ∀ (s : State) (rd : Byte), s.Running →
    (s.state = stateCode .idle →
      exec (.irq false false false rd) s = .next { s with ht := s.ht ++ [stateCode .idle], pend := false }) ∧
    (s.state = stateCode .stop →
      exec (.irq false false false rd) s = .next
        { s with
          state := stateCode .idle
          ht := s.ht ++ [stateCode .stop]
          ct := s.ct ++ [.issueStop]
          pend := false })

/-- R131, R100: without a flag, an IRQ runs the handler of STATE as its row does, after PEND is cleared, for the seven states whose handlers
access no buffer (for the other two: IrqTransmitsTheByteAtTheCursor, IrqStoresTheReceivedByte, ByteHandlerStopsInOrder). That PEND is
cleared before the handler is R179 of 60_exceptions.md section 7, kept in State (log 11, DEDUCED); `exec` of a row is one dispatch of that handler
(log 15, DESIGN CHOICE). -/
def Obligations.IrqWithoutAFlagRunsTheHandlerOfState : Prop :=
  ∀ (s : State) (q : FsmState) (rd : Byte), s.Running → s.state = stateCode q →
    q ≠ .transmitByte → q ≠ .receiveByte →
    exec (.irq false false false rd) s = exec (handlerOf q) { s with pend := false } ∧
    ∃ t, exec (.irq false false false rd) s = .next t ∧ t.fault = none ∧ t.ht = s.ht ++ [stateCode q]

/-- R131, R106, R107: in TransmitByte an IRQ without a flag sends buffer byte CUR as read before the increment, adds 1 to CUR, and goes to Stop
when the cursor has reached LEN; RD is ignored. Its
PEND: R179 of 60_exceptions.md section 7, kept in State (log 11, DEDUCED). -/
def Obligations.IrqTransmitsTheByteAtTheCursor : Prop :=
  ∀ (s : State) (rd : Byte), s.Running → s.state = stateCode .transmitByte → s.cur < s.len →
    memAdmit s.params (s.buf + s.cur) = true →
    exec (.irq false false false rd) s = .next
      { s with
        state := if s.cur + 1 ≥ s.len then stateCode .stop else stateCode .transmitByte
        cur := s.cur + 1
        ht := s.ht ++ [stateCode .transmitByte]
        ct := s.ct ++ [.writeData (memRead s.mem (s.buf + s.cur))]
        pend := true }

/-- R131, R108, R109: in ReceiveByte an IRQ without a flag stores its RD at BUF + CUR, records it in CT, adds 1 to CUR, and goes to Stop when
the cursor has reached LEN; every other byte of memory reads as before. Its
PEND: R179 of 60_exceptions.md section 7, kept in State (log 11, DEDUCED). -/
def Obligations.IrqStoresTheReceivedByte : Prop :=
  ∀ (s : State) (rd : Byte), s.Running → s.mem.wf → s.state = stateCode .receiveByte → s.cur < s.len →
    memAdmit s.params (s.buf + s.cur) = true →
    ∃ m : Memory, memRead m (s.buf + s.cur) = rd ∧ (∀ a, a ≠ s.buf + s.cur → memRead m a = memRead s.mem a) ∧
      exec (.irq false false false rd) s = .next
        { s with
          state := if s.cur + 1 ≥ s.len then stateCode .stop else stateCode .receiveByte
          cur := s.cur + 1
          mem := m
          ht := s.ht ++ [stateCode .receiveByte]
          ct := s.ct ++ [.readData rd]
          pend := true }

/-- R101, R166: a dispatch on a code from 9 to 15 raises Fault(IllegalState), sends nothing and runs no handler: at an IRQ without a flag, and
at a LAUNCH_B. Such a LAUNCH_B leaves the count of the owed ones as it was (the model's count, log 12, DEDUCED).
A fault is a next state with FAULT set (log 5, DEDUCED). -/
def Obligations.IllegalStateFaults : Prop :=
  ∀ (s : State) (rd : Byte) (rest : List Event), s.Running → 9 ≤ s.state.toNat →
    exec (.irq false false false rd) s = .next { s with fault := some (.illegalState s.state) } ∧
    (s.inputs = .launchB :: rest → 0 < s.launchesOwed →
      step s = .next { s with inputs := rest, fault := some (.illegalState s.state) })

/-- R106, R108, R52, R53, R169: a byte handler stops first on CUR >= LEN (BufferOverrun), then on an address past the top of caller memory
(AddressOverflow), then on an address MemAdmit rejects (stuck); no stop changes anything but FAULT. The clauses exclude each other.
The rows H_TX and H_RX run at every STATE and record the one they find, which is the model's choice (log 15, DESIGN CHOICE).
A fault is a next state with FAULT set (log 5, DEDUCED), and an address MemAdmit rejects is a stop by name (log 6, DEDUCED). -/
def Obligations.ByteHandlerStopsInOrder : Prop :=
  ∀ (s : State) (i : Instr) (rd : Byte), s.Running →
    (i = .irq false false false rd ∧ (s.state = stateCode .transmitByte ∨ s.state = stateCode .receiveByte)) ∨
      i = .hTx ∨ i = .hRx →
    (s.len ≤ s.cur → exec i s = .next { s with fault := some (.bufferOverrun s.state s.cur s.len) }) ∧
    (s.cur < s.len → 2 ^ s.params.bufAddrBits ≤ s.buf + s.cur →
      exec i s = .next { s with fault := some (.addressOverflow s.buf s.cur) }) ∧
    (s.cur < s.len → s.buf + s.cur < 2 ^ s.params.bufAddrBits → memAdmit s.params (s.buf + s.cur) = false →
      exec i s = .fault (.stuck (s.buf + s.cur)))

/-- R131, R134, R106, R108: the frame of IRQ, whatever handler runs: SAD, BUF, LEN and REFUSED stay; LASTERR stays unless a flag is set and it is
present; CUR changes only in a byte handler; the one byte of memory that may change is the one H_RX stores at its buffer access address.
R135 is not among its rules: R135's list of the only effects of IRQ leaves out CUR, which R106 and R108 advance in the same operation. -/
def Obligations.IrqFrame : Prop :=
  ∀ (s t : State) (k l b : Bool) (rd : Byte), s.mem.wf → exec (.irq k l b rd) s = .next t →
    t.sad = s.sad ∧ t.buf = s.buf ∧ t.len = s.len ∧ t.refused = s.refused ∧ t.launchesOwed = s.launchesOwed ∧
    t.inputs = s.inputs ∧ t.draws = s.draws ∧ t.params = s.params ∧
    ((k || l || b) = false ∨ s.params.hasLastError = false → t.lastErr = s.lastErr) ∧
    ((k || l || b) = true ∨ (s.state ≠ stateCode .transmitByte ∧ s.state ≠ stateCode .receiveByte) → t.cur = s.cur) ∧
    ((k || l || b) = true ∨ s.state ≠ stateCode .receiveByte → SameBytes s t) ∧
    SameBytesBut (bufAccess s) s t

/-! ### EXT_RESET -/

/-- R150, R111, R202: in every state, EXT_RESET runs H_RESET in the same step: FLUSH, then FORCE_IDLE, and Idle; SAD, BUF, LEN, CUR and LASTERR
stay. Its PEND: R179 of 60_exceptions.md section 7, kept in State (log 11, DEDUCED). -/
def Obligations.ExtResetFlushesAndGoesIdle : Prop :=
  ∀ s : State, s.Running →
    exec .extReset s = .next
      { s with
        state := stateCode .idle
        ht := s.ht ++ [stateCode .reset]
        ct := s.ct ++ [.flush, .forceIdle]
        pend := false }

/-! ### Handlers -/

/-- R103: H_IDLE sends nothing, accesses nothing and returns Idle (the dispatch records it in HT, R100). That the row is one dispatch of H_IDLE
at every STATE, also where R100 would select another handler, is the model's choice (log 15, DESIGN CHOICE). -/
def Obligations.IdleHandlerDoesNothing : Prop :=
  ∀ s : State, s.Running →
    exec .hIdle s = .next { s with state := stateCode .idle, ht := s.ht ++ [stateCode .idle] }

/-- R104: H_START sends ISSUE_ADDR(SAD) and returns TransmitByte if SAD[0] = 0, else ReceiveByte.
Its PEND: R179 of 60_exceptions.md section 7, kept in State (log 11, DEDUCED).
That the row is one dispatch of its handler at every STATE is the model's choice (log 15, DESIGN CHOICE). -/
def Obligations.StartHandlerIssuesTheAddress : Prop :=
  ∀ s : State, s.Running →
    exec .hStart s = .next
      { s with
        state := if s.sad.getLsbD 0 = false then stateCode .transmitByte else stateCode .receiveByte
        ht := s.ht ++ [stateCode .start]
        ct := s.ct ++ [.issueAddr s.sad]
        pend := true }

/-- R110: H_STOP (STATE code 2) issues the stop condition and returns Idle; it runs on the IRQ that finds STATE = Stop, and where that IRQ
carries an error flag the error handler runs instead, with the same command and the same next state.
Its PEND: R179 of 60_exceptions.md section 7, kept in State (log 11, DEDUCED).
That the row is one dispatch of its handler at every STATE is the model's choice (log 15, DESIGN CHOICE). -/
def Obligations.StopHandlerIssuesTheStop : Prop :=
  encode .hStop = .st 2 ∧
  ∀ s : State, s.Running →
    exec .hStop s = .next
      { s with
        state := stateCode .idle
        ht := s.ht ++ [stateCode .stop]
        ct := s.ct ++ [.issueStop]
        pend := false } ∧
    (s.state = stateCode .stop → ∀ (k l b : Bool) (rd : Byte), ∃ t, exec (.irq k l b rd) s = .next t ∧
      t.state = stateCode .idle ∧ t.ct = s.ct ++ [.issueStop] ∧
      ((k || l || b) = false → t.ht = s.ht ++ [stateCode .stop]) ∧
      ((k || l || b) = true →
        ∃ q : FsmState, q ∈ [.nackReceived, .arbitrationLost, .busError] ∧ t.ht = s.ht ++ [stateCode q]))

/-- R111: H_RESET sends FLUSH, then FORCE_IDLE, and returns Idle.
Its PEND: R179 of 60_exceptions.md section 7, kept in State (log 11, DEDUCED).
That the row is one dispatch of its handler at every STATE is the model's choice (log 15, DESIGN CHOICE). -/
def Obligations.ResetHandlerFlushes : Prop :=
  ∀ s : State, s.Running →
    exec .hReset s = .next
      { s with
        state := stateCode .idle
        ht := s.ht ++ [stateCode .reset]
        ct := s.ct ++ [.flush, .forceIdle]
        pend := false }

/-- R115: each error handler sends one ISSUE_STOP and returns Idle; they differ only in the code HT records, and, where it is present, in the
LASTERR that the override of the IRQ before them writes.
Its PEND: R179 of 60_exceptions.md section 7, kept in State (log 11, DEDUCED).
That the row is one dispatch of its handler at every STATE is the model's choice (log 15, DESIGN CHOICE). -/
def Obligations.ErrorHandlersIssueTheStop : Prop :=
  ∀ s : State, s.Running →
    (∀ (i : Instr) (q : FsmState),
      (i = .hNack ∧ q = .nackReceived) ∨ (i = .hArb ∧ q = .arbitrationLost) ∨ (i = .hBuserr ∧ q = .busError) →
      exec i s = .next
        { s with
          state := stateCode .idle
          ht := s.ht ++ [stateCode q]
          ct := s.ct ++ [.issueStop]
          pend := false }) ∧
    (∀ (k l b : Bool) (rd : Byte), (k || l || b) = true → ∃ (q : FsmState) (e : BitVec 2),
      q ∈ [.nackReceived, .arbitrationLost, .busError] ∧ (s.params.hasLastError = false → e = s.lastErr) ∧
      exec (.irq k l b rd) s = .next
        { s with
          state := stateCode .idle
          lastErr := e
          ht := s.ht ++ [stateCode q]
          ct := s.ct ++ [.issueStop]
          pend := false })

/-- R106, R107: H_TX sends buffer byte CUR, adds 1 to CUR, and returns Stop when the cursor has reached LEN, else TransmitByte.
Its PEND: R179 of 60_exceptions.md section 7, kept in State (log 11, DEDUCED).
That the row is one dispatch of its handler at every STATE is the model's choice (log 15, DESIGN CHOICE). -/
def Obligations.TransmitHandlerSendsOneByte : Prop :=
  ∀ s : State, s.Running → s.cur < s.len → memAdmit s.params (s.buf + s.cur) = true →
    exec .hTx s = .next
      { s with
        state := if s.cur + 1 ≥ s.len then stateCode .stop else stateCode .transmitByte
        cur := s.cur + 1
        ht := s.ht ++ [stateCode .transmitByte]
        ct := s.ct ++ [.writeData (memRead s.mem (s.buf + s.cur))]
        pend := true }

/-- R108: H_RX outside an IRQ stores the byte READ_DATA returns, a free draw (log 8), at BUF + CUR, adds 1 to CUR, and returns Stop when the
cursor has reached LEN, else ReceiveByte. The statement holds for every value of the draw.
Its PEND: R179 of 60_exceptions.md section 7, kept in State (log 11, DEDUCED).
That the row is one dispatch of its handler at every STATE is the model's choice (log 15, DESIGN CHOICE). -/
def Obligations.ReceiveHandlerStoresOneByte : Prop :=
  ∀ s : State, s.Running → s.mem.wf → s.cur < s.len → memAdmit s.params (s.buf + s.cur) = true →
    ∃ (m : Memory) (v : Byte), memRead m (s.buf + s.cur) = v ∧
      (∀ a, a ≠ s.buf + s.cur → memRead m a = memRead s.mem a) ∧
      exec .hRx s = .next
        { s with
          state := if s.cur + 1 ≥ s.len then stateCode .stop else stateCode .receiveByte
          cur := s.cur + 1
          mem := m
          ht := s.ht ++ [stateCode .receiveByte]
          ct := s.ct ++ [.readData v]
          pend := true
          draws := s.draws + 1 }

/-- R103, R104, R106, R110 to R114, R150: the frame of EXT_RESET and of the eight handlers that store nothing: SAD, BUF, LEN, LASTERR, REFUSED
and every byte of memory stay; CUR and FAULT stay in all but H_TX.
A handler's row is one dispatch of its handler at every STATE, which is the model's choice (log 15, DESIGN CHOICE). -/
def Obligations.NonStoringHandlersFrame : Prop :=
  ∀ (s t : State) (i : Instr), i ∈ [.extReset, .hIdle, .hStart, .hStop, .hReset, .hTx, .hNack, .hArb, .hBuserr] →
    exec i s = .next t →
    t.sad = s.sad ∧ t.buf = s.buf ∧ t.len = s.len ∧ t.lastErr = s.lastErr ∧ t.refused = s.refused ∧
    t.launchesOwed = s.launchesOwed ∧ t.inputs = s.inputs ∧ t.draws = s.draws ∧ t.params = s.params ∧
    SameBytes s t ∧ (i ≠ .hTx → t.cur = s.cur ∧ t.fault = s.fault)

/-- R108: the frame of H_RX: SAD, BUF, LEN, LASTERR and REFUSED stay, and so does every byte of memory but the one at its buffer access
address.
A handler's row is one dispatch of its handler at every STATE, which is the model's choice (log 15, DESIGN CHOICE). -/
def Obligations.ReceiveHandlerFrame : Prop :=
  ∀ (s t : State), s.mem.wf → exec .hRx s = .next t →
    t.sad = s.sad ∧ t.buf = s.buf ∧ t.len = s.len ∧ t.lastErr = s.lastErr ∧ t.refused = s.refused ∧
    t.launchesOwed = s.launchesOwed ∧ t.inputs = s.inputs ∧ t.params = s.params ∧
    SameBytesBut (bufAccess s) s t

/-! ### Host access -/

/-- R56: a host write inside the buffer region while a transaction is active faults; any other write to an admitted address is made, is read
back, and leaves every other byte and every register alone.
A fault is a next state with FAULT set (log 5, DEDUCED). -/
def Obligations.HostWriteOutsideTheActiveBuffer : Prop :=
  ∀ (s : State) (a : Nat) (v : Byte) (rest : List Event), s.Running → s.inputs = .hostWrite a v :: rest →
    (s.state ≠ stateCode .idle ∧ s.buf ≤ a ∧ a < s.buf + s.len →
      step s = .next { s with inputs := rest, fault := some (.bufferWriteWhileBusy s.state a) }) ∧
    (s.mem.wf → ¬ (s.state ≠ stateCode .idle ∧ s.buf ≤ a ∧ a < s.buf + s.len) → memAdmit s.params a = true →
      ∃ m : Memory, step s = .next { s with inputs := rest, mem := m } ∧ memRead m a = v ∧
        ∀ b, b ≠ a → memRead m b = memRead s.mem b)

/-- R57, R28: a host read of admitted memory and a read of a register change nothing, and the read returns the byte memory holds. -/
def Obligations.HostReadsChangeNothing : Prop :=
  ∀ (s : State) (rest : List Event), s.Running →
    (∀ a, s.inputs = .hostRead a :: rest → memAdmit s.params a = true →
      step s = .next { s with inputs := rest } ∧ peek s a = some (memRead s.mem a)) ∧
    (∀ r, s.inputs = .hostReadReg r :: rest → step s = .next { s with inputs := rest })

/-! ### Faults -/

/-- R166: each of the five fault reasons is raised by its cause, with its code and its recorded information, and nothing else changes (a fault is
a next state with FAULT set, log 5; the move of the host is the first of `inputs`, log 1). -/
def Obligations.FaultReasonsHaveTheirCodes : Prop :=
  ∀ s : State, s.Running →
    (∀ rd : Byte, s.state = stateCode .transmitByte ∨ s.state = stateCode .receiveByte →
      (s.len ≤ s.cur → ∃ r, r = .bufferOverrun s.state s.cur s.len ∧ faultCode r = 1 ∧
        exec (.irq false false false rd) s = .next { s with fault := some r }) ∧
      (s.cur < s.len → 2 ^ s.params.bufAddrBits ≤ s.buf + s.cur →
        ∃ r, r = .addressOverflow s.buf s.cur ∧ faultCode r = 2 ∧
          exec (.irq false false false rd) s = .next { s with fault := some r })) ∧
    (∀ ref n : Nat, (Instr.setBuffer ref n).wf s.params = true → s.state ≠ stateCode .idle →
      ∃ r, r = .setBufferWhileBusy s.state ref n ∧ faultCode r = 3 ∧
        exec (.setBuffer ref n) s = .next { s with fault := some r }) ∧
    (∀ (a : Nat) (v : Byte) (rest : List Event), s.inputs = .hostWrite a v :: rest → s.state ≠ stateCode .idle →
      s.buf ≤ a → a < s.buf + s.len →
      ∃ r, r = .bufferWriteWhileBusy s.state a ∧ faultCode r = 4 ∧
        step s = .next { s with inputs := rest, fault := some r }) ∧
    (∀ rd : Byte, 9 ≤ s.state.toNat →
      ∃ r, r = .illegalState s.state ∧ faultCode r = 5 ∧
        exec (.irq false false false rd) s = .next { s with fault := some r })

/-! ### Reset and invariants -/

/-- R39, R200: after reset every register is zero with STATE = Idle, the marks are clear and the traces empty, for all parameters. -/
def Obligations.ResetZeroesTheRegisters : Prop :=
  ∀ p : Params,
    (State.resetWith p).sad = 0 ∧ (State.resetWith p).buf = 0 ∧ (State.resetWith p).len = 0 ∧
    (State.resetWith p).cur = 0 ∧ (State.resetWith p).state = stateCode .idle ∧ (State.resetWith p).lastErr = 0 ∧
    (State.resetWith p).fault = none ∧ (State.resetWith p).refused = none ∧ (State.resetWith p).ct = [] ∧
    (State.resetWith p).ht = [] ∧ (State.resetWith p).params = p ∧ State.reset = State.resetWith Config.defaultParams

/-- R37, R38, R180: the reset state of legal parameters meets the invariants of the machine: well formed, settled, no LAUNCH_B owed where
ATOMIC_LAUNCH is true, and PEND = 0 as STATE = Idle asks. The clauses rest on reset values that are the model's: `launchesOwed` = 0 (log 12,
DESIGN CHOICE), PEND = 0, R179's value after Initialization (log 11, DEDUCED), and memory with nothing listed (log 7, DESIGN CHOICE). -/
def Obligations.ResetMeetsTheInvariants : Prop :=
  ∀ p : Params, p.wf = true →
    (State.resetWith p).Wf ∧ (State.resetWith p).Settled ∧ (State.resetWith p).AtomicOwesNone ∧
    (State.resetWith p).IdleOwesNone ∧ (State.resetWith p).ActiveOwesOne

/-- R37, R25, R26, R50, R53: every step keeps the state well formed: registers within their widths, CUR at most LEN, STATE a legal code, LASTERR zero
where absent, memory in canonical form and on admitted addresses. -/
def Obligations.StepKeepsTheStateWellFormed : Prop :=
  ∀ s t : State, s.Wf → step s = .next t → t.Wf

/-- R38: after every step STATE is Idle, TransmitByte, ReceiveByte or Stop, or Start with a LAUNCH_B owed; and with ATOMIC_LAUNCH none is ever
owed.
The count of owed LAUNCH_Bs is the model's (log 12, DEDUCED). -/
def Obligations.StepKeepsStateSettled : Prop :=
  ∀ s t : State, s.Settled → s.AtomicOwesNone → step s = .next t → t.Settled ∧ t.AtomicOwesNone

/-- R180: STATE = Idle implies PEND = 0 after every step, so under PeriphOK no IRQ reaches an idle block.
PEND is R179's bit, kept in State (log 11, DEDUCED). -/
def Obligations.IdleBlockIsOwedNoInterrupt : Prop :=
  ∀ s : State, s.IdleOwesNone →
    (∀ t, step s = .next t → t.IdleOwesNone) ∧
    (PeriphOK s → s.state = stateCode .idle → deliversIrq (nextEvent s) = false)

/-- R179, R141, R106, R108: with ATOMIC_LAUNCH, an active transaction is always owed an interrupt.
PEND is R179's bit, kept in State (log 11, DEDUCED). -/
def Obligations.ActiveTransactionIsOwedAnInterrupt : Prop :=
  ∀ s t : State, s.params.atomicLaunch = true → s.AtomicOwesNone → s.Settled → s.ActiveOwesOne →
    step s = .next t → t.ActiveOwesOne

/-- R36: while a transaction is active no step changes SAD, BUF or LEN; and no step ever changes the parameters. -/
def Obligations.ActiveTransactionKeepsItsBuffer : Prop :=
  ∀ s t : State, step s = .next t →
    t.params = s.params ∧
    (s.state ≠ stateCode .idle → t.sad = s.sad ∧ t.buf = s.buf ∧ t.len = s.len)

/-- R34, R35, R100, R117: a step only appends to the traces: at most one handler code to HT and at most two commands to CT. -/
def Obligations.TracesOnlyGrow : Prop :=
  ∀ s t : State, step s = .next t →
    ∃ (hs : List StCode) (cs : List Cmd), t.ht = s.ht ++ hs ∧ hs.length ≤ 1 ∧ t.ct = s.ct ++ cs ∧ cs.length ≤ 2

/-- R153: a transaction ends only through H_STOP, an error handler or EXT_RESET's H_RESET; a step that is neither an IRQ, nor an EXT_RESET, nor
a LAUNCH_B leaves an active STATE as it is; and a LAUNCH meanwhile is a no-op. -/
def Obligations.TransactionEndsOnlyByStopOrReset : Prop :=
  ∀ s t : State, s.state ≠ stateCode .idle → step s = .next t →
    (t.state = stateCode .idle →
      ∃ q : FsmState, q ∈ [.stop, .nackReceived, .arbitrationLost, .busError, .reset] ∧
        t.ht = s.ht ++ [stateCode q]) ∧
    (deliversIrq (nextEvent s) = false → nextEvent s ≠ .launchB →
      (∀ ctx w ref n, nextEvent s = .request ctx w ref n → decodeRequest w ref n ≠ .ok .extReset) →
      t.state = s.state) ∧
    (∀ w ref n a d, nextEvent s = .request .foreground w ref n → decodeRequest w ref n = .ok (.launch a d) →
      t = takeEvent s)

/-! ### Whole transactions -/

/-- R152: from an idle block, SET_BUFFER(REF, n) with n >= 1 and an admitted buffer, then LAUNCH and n + 1 IRQs without a flag end in Idle with
CUR = n; HT is Start, n times the byte state, Stop; CT is the address, n data records (for a write the buffer's bytes, for a read the bytes
received), and the stop. -/
def Obligations.CleanTransactionEndsWithCursorAtLength : Prop :=
  ∀ (s : State) (ref n : Nat) (a : BitVec 7) (d : Bool) (rds : List Byte) (last : Byte),
    s.Running → s.mem.wf → s.params.atomicLaunch = true → s.state = stateCode .idle →
    (Instr.setBuffer ref n).wf s.params = true → 1 ≤ n → rds.length = n →
    (∀ j, j < n → memAdmit s.params (ref + j) = true) →
    ∃ t, transaction ref n a d (rds ++ [last]) s = .next t ∧
      t.state = stateCode .idle ∧ t.cur = n ∧ t.fault = none ∧
      t.ht = s.ht ++ [stateCode .start] ++
        List.replicate n (stateCode (if d then .receiveByte else .transmitByte)) ++ [stateCode .stop] ∧
      t.ct = s.ct ++ [.issueAddr (a ++ BitVec.ofBool d)] ++
        (if d then rds.map Cmd.readData
          else (List.range n).map fun j => Cmd.writeData (memRead s.mem (ref + j))) ++ [.issueStop] ∧
      (d = true → ∀ j, (h : j < rds.length) → memRead t.mem (ref + j) = rds[j])

/-- R214, R215, R143: a transaction launched with CUR = LEN (no fresh SET_BUFFER, or LEN = 0) faults with BufferOverrun at its first clean IRQ,
and a flag on that IRQ ends it without a fault.
A fault is a next state with FAULT set (log 5, DEDUCED). -/
def Obligations.StaleCursorFaultsAtTheFirstByte : Prop :=
  ∀ (s : State) (a : BitVec 7) (d : Bool) (rd : Byte), s.Running → s.params.atomicLaunch = true →
    s.state = stateCode .idle → s.cur = s.len →
    ∃ t, exec (.launch a d) s = .next t ∧
      exec (.irq false false false rd) t = .next { t with fault := some (.bufferOverrun t.state t.cur t.len) } ∧
      ∃ u, exec (.irq true false false rd) t = .next u ∧ u.fault = none ∧ u.state = stateCode .idle

/-- R216, R153, R179: with ATOMIC_LAUNCH, in every endless run from a state that meets the invariants of STATE and PEND, whatever
the schedule of moves, if owed interrupts are not withheld for ever, the block is idle again and again.
PEND is R179's bit, kept in State (log 11, DEDUCED). -/
def Obligations.FairRunsReturnToIdle : Prop :=
  ∀ (ev : Nat → Event) (run : Nat → State), IsRun ev run → FairDelivery ev run →
    (run 0).params.atomicLaunch = true →
    (run 0).Settled → (run 0).AtomicOwesNone → (run 0).ActiveOwesOne →
    ∀ k, ∃ j, k ≤ j ∧ (run j).state = stateCode .idle
end

