-- ==== Sys2Proof/Laws/Decode.lean ====
section
/-! SUPPORT. The state codes and their decoder. -/

namespace Sys2Proof

@[simp] theorem stateOfCode_stateCode (q : FsmState) : stateOfCode (stateCode q) = some q := by
  cases q <;> rfl

theorem stateCode_toNat_le (q : FsmState) : (stateCode q).toNat ≤ 8 := by
  cases q <;> decide

theorem stateCode_injective {q r : FsmState} (h : stateCode q = stateCode r) : q = r := by
  have := congrArg stateOfCode h
  simpa using this

@[simp] theorem stateCode_inj {q r : FsmState} : stateCode q = stateCode r ↔ q = r :=
  ⟨stateCode_injective, fun h => h ▸ rfl⟩

/-- The only code that names a state is that state's. -/
theorem eq_stateCode_of_stateOfCode {c : StCode} {q : FsmState} (h : stateOfCode c = some q) : c = stateCode q := by
  revert h
  revert c
  cases q <;> decide

theorem stateOfCode_eq_none {c : StCode} : stateOfCode c = none ↔ 9 ≤ c.toNat := by
  revert c
  decide

end Sys2Proof
end

