-- ==== Sys2Proof/Laws/State.lean ====
section
/-! SUPPORT. One lemma for each field and each named update of the state, true by `rfl`. -/

namespace Sys2Proof.Machine

variable (s : State)

/-! ### State.setSad -/

@[simp] theorem State.setSad_sad (v : Byte) : (s.setSad v).sad = v := rfl
@[simp] theorem State.setSad_buf (v : Byte) : (s.setSad v).buf = s.buf := rfl
@[simp] theorem State.setSad_len (v : Byte) : (s.setSad v).len = s.len := rfl
@[simp] theorem State.setSad_cur (v : Byte) : (s.setSad v).cur = s.cur := rfl
@[simp] theorem State.setSad_state (v : Byte) : (s.setSad v).state = s.state := rfl
@[simp] theorem State.setSad_lastErr (v : Byte) : (s.setSad v).lastErr = s.lastErr := rfl
@[simp] theorem State.setSad_fault (v : Byte) : (s.setSad v).fault = s.fault := rfl
@[simp] theorem State.setSad_refused (v : Byte) : (s.setSad v).refused = s.refused := rfl
@[simp] theorem State.setSad_ct (v : Byte) : (s.setSad v).ct = s.ct := rfl
@[simp] theorem State.setSad_ht (v : Byte) : (s.setSad v).ht = s.ht := rfl
@[simp] theorem State.setSad_mem (v : Byte) : (s.setSad v).mem = s.mem := rfl
@[simp] theorem State.setSad_pend (v : Byte) : (s.setSad v).pend = s.pend := rfl
@[simp] theorem State.setSad_launchesOwed (v : Byte) : (s.setSad v).launchesOwed = s.launchesOwed := rfl
@[simp] theorem State.setSad_inputs (v : Byte) : (s.setSad v).inputs = s.inputs := rfl
@[simp] theorem State.setSad_draws (v : Byte) : (s.setSad v).draws = s.draws := rfl
@[simp] theorem State.setSad_params (v : Byte) : (s.setSad v).params = s.params := rfl

/-! ### State.assignBuffer -/

@[simp] theorem State.assignBuffer_sad (ref n : Nat) : (s.assignBuffer ref n).sad = s.sad := rfl
@[simp] theorem State.assignBuffer_buf (ref n : Nat) : (s.assignBuffer ref n).buf = ref := rfl
@[simp] theorem State.assignBuffer_len (ref n : Nat) : (s.assignBuffer ref n).len = n := rfl
@[simp] theorem State.assignBuffer_cur (ref n : Nat) : (s.assignBuffer ref n).cur = 0 := rfl
@[simp] theorem State.assignBuffer_state (ref n : Nat) : (s.assignBuffer ref n).state = s.state := rfl
@[simp] theorem State.assignBuffer_lastErr (ref n : Nat) : (s.assignBuffer ref n).lastErr = s.lastErr := rfl
@[simp] theorem State.assignBuffer_fault (ref n : Nat) : (s.assignBuffer ref n).fault = s.fault := rfl
@[simp] theorem State.assignBuffer_refused (ref n : Nat) : (s.assignBuffer ref n).refused = s.refused := rfl
@[simp] theorem State.assignBuffer_ct (ref n : Nat) : (s.assignBuffer ref n).ct = s.ct := rfl
@[simp] theorem State.assignBuffer_ht (ref n : Nat) : (s.assignBuffer ref n).ht = s.ht := rfl
@[simp] theorem State.assignBuffer_mem (ref n : Nat) : (s.assignBuffer ref n).mem = s.mem := rfl
@[simp] theorem State.assignBuffer_pend (ref n : Nat) : (s.assignBuffer ref n).pend = s.pend := rfl
@[simp] theorem State.assignBuffer_launchesOwed (ref n : Nat) : (s.assignBuffer ref n).launchesOwed = s.launchesOwed := rfl
@[simp] theorem State.assignBuffer_inputs (ref n : Nat) : (s.assignBuffer ref n).inputs = s.inputs := rfl
@[simp] theorem State.assignBuffer_draws (ref n : Nat) : (s.assignBuffer ref n).draws = s.draws := rfl
@[simp] theorem State.assignBuffer_params (ref n : Nat) : (s.assignBuffer ref n).params = s.params := rfl

/-! ### State.setCur -/

@[simp] theorem State.setCur_sad (c : Nat) : (s.setCur c).sad = s.sad := rfl
@[simp] theorem State.setCur_buf (c : Nat) : (s.setCur c).buf = s.buf := rfl
@[simp] theorem State.setCur_len (c : Nat) : (s.setCur c).len = s.len := rfl
@[simp] theorem State.setCur_cur (c : Nat) : (s.setCur c).cur = c := rfl
@[simp] theorem State.setCur_state (c : Nat) : (s.setCur c).state = s.state := rfl
@[simp] theorem State.setCur_lastErr (c : Nat) : (s.setCur c).lastErr = s.lastErr := rfl
@[simp] theorem State.setCur_fault (c : Nat) : (s.setCur c).fault = s.fault := rfl
@[simp] theorem State.setCur_refused (c : Nat) : (s.setCur c).refused = s.refused := rfl
@[simp] theorem State.setCur_ct (c : Nat) : (s.setCur c).ct = s.ct := rfl
@[simp] theorem State.setCur_ht (c : Nat) : (s.setCur c).ht = s.ht := rfl
@[simp] theorem State.setCur_mem (c : Nat) : (s.setCur c).mem = s.mem := rfl
@[simp] theorem State.setCur_pend (c : Nat) : (s.setCur c).pend = s.pend := rfl
@[simp] theorem State.setCur_launchesOwed (c : Nat) : (s.setCur c).launchesOwed = s.launchesOwed := rfl
@[simp] theorem State.setCur_inputs (c : Nat) : (s.setCur c).inputs = s.inputs := rfl
@[simp] theorem State.setCur_draws (c : Nat) : (s.setCur c).draws = s.draws := rfl
@[simp] theorem State.setCur_params (c : Nat) : (s.setCur c).params = s.params := rfl

/-! ### State.setState -/

@[simp] theorem State.setState_sad (q : FsmState) : (s.setState q).sad = s.sad := rfl
@[simp] theorem State.setState_buf (q : FsmState) : (s.setState q).buf = s.buf := rfl
@[simp] theorem State.setState_len (q : FsmState) : (s.setState q).len = s.len := rfl
@[simp] theorem State.setState_cur (q : FsmState) : (s.setState q).cur = s.cur := rfl
@[simp] theorem State.setState_state (q : FsmState) : (s.setState q).state = stateCode q := rfl
@[simp] theorem State.setState_lastErr (q : FsmState) : (s.setState q).lastErr = s.lastErr := rfl
@[simp] theorem State.setState_fault (q : FsmState) : (s.setState q).fault = s.fault := rfl
@[simp] theorem State.setState_refused (q : FsmState) : (s.setState q).refused = s.refused := rfl
@[simp] theorem State.setState_ct (q : FsmState) : (s.setState q).ct = s.ct := rfl
@[simp] theorem State.setState_ht (q : FsmState) : (s.setState q).ht = s.ht := rfl
@[simp] theorem State.setState_mem (q : FsmState) : (s.setState q).mem = s.mem := rfl
@[simp] theorem State.setState_pend (q : FsmState) : (s.setState q).pend = s.pend := rfl
@[simp] theorem State.setState_launchesOwed (q : FsmState) : (s.setState q).launchesOwed = s.launchesOwed := rfl
@[simp] theorem State.setState_inputs (q : FsmState) : (s.setState q).inputs = s.inputs := rfl
@[simp] theorem State.setState_draws (q : FsmState) : (s.setState q).draws = s.draws := rfl
@[simp] theorem State.setState_params (q : FsmState) : (s.setState q).params = s.params := rfl

/-! ### State.setLastErr -/

@[simp] theorem State.setLastErr_sad (c : BitVec 2) : (s.setLastErr c).sad = s.sad := rfl
@[simp] theorem State.setLastErr_buf (c : BitVec 2) : (s.setLastErr c).buf = s.buf := rfl
@[simp] theorem State.setLastErr_len (c : BitVec 2) : (s.setLastErr c).len = s.len := rfl
@[simp] theorem State.setLastErr_cur (c : BitVec 2) : (s.setLastErr c).cur = s.cur := rfl
@[simp] theorem State.setLastErr_state (c : BitVec 2) : (s.setLastErr c).state = s.state := rfl
@[simp] theorem State.setLastErr_lastErr (c : BitVec 2) : (s.setLastErr c).lastErr = if s.params.hasLastError then c else s.lastErr := rfl
@[simp] theorem State.setLastErr_fault (c : BitVec 2) : (s.setLastErr c).fault = s.fault := rfl
@[simp] theorem State.setLastErr_refused (c : BitVec 2) : (s.setLastErr c).refused = s.refused := rfl
@[simp] theorem State.setLastErr_ct (c : BitVec 2) : (s.setLastErr c).ct = s.ct := rfl
@[simp] theorem State.setLastErr_ht (c : BitVec 2) : (s.setLastErr c).ht = s.ht := rfl
@[simp] theorem State.setLastErr_mem (c : BitVec 2) : (s.setLastErr c).mem = s.mem := rfl
@[simp] theorem State.setLastErr_pend (c : BitVec 2) : (s.setLastErr c).pend = s.pend := rfl
@[simp] theorem State.setLastErr_launchesOwed (c : BitVec 2) : (s.setLastErr c).launchesOwed = s.launchesOwed := rfl
@[simp] theorem State.setLastErr_inputs (c : BitVec 2) : (s.setLastErr c).inputs = s.inputs := rfl
@[simp] theorem State.setLastErr_draws (c : BitVec 2) : (s.setLastErr c).draws = s.draws := rfl
@[simp] theorem State.setLastErr_params (c : BitVec 2) : (s.setLastErr c).params = s.params := rfl

/-! ### State.pushHandler -/

@[simp] theorem State.pushHandler_sad (c : StCode) : (s.pushHandler c).sad = s.sad := rfl
@[simp] theorem State.pushHandler_buf (c : StCode) : (s.pushHandler c).buf = s.buf := rfl
@[simp] theorem State.pushHandler_len (c : StCode) : (s.pushHandler c).len = s.len := rfl
@[simp] theorem State.pushHandler_cur (c : StCode) : (s.pushHandler c).cur = s.cur := rfl
@[simp] theorem State.pushHandler_state (c : StCode) : (s.pushHandler c).state = s.state := rfl
@[simp] theorem State.pushHandler_lastErr (c : StCode) : (s.pushHandler c).lastErr = s.lastErr := rfl
@[simp] theorem State.pushHandler_fault (c : StCode) : (s.pushHandler c).fault = s.fault := rfl
@[simp] theorem State.pushHandler_refused (c : StCode) : (s.pushHandler c).refused = s.refused := rfl
@[simp] theorem State.pushHandler_ct (c : StCode) : (s.pushHandler c).ct = s.ct := rfl
@[simp] theorem State.pushHandler_ht (c : StCode) : (s.pushHandler c).ht = s.ht ++ [c] := rfl
@[simp] theorem State.pushHandler_mem (c : StCode) : (s.pushHandler c).mem = s.mem := rfl
@[simp] theorem State.pushHandler_pend (c : StCode) : (s.pushHandler c).pend = s.pend := rfl
@[simp] theorem State.pushHandler_launchesOwed (c : StCode) : (s.pushHandler c).launchesOwed = s.launchesOwed := rfl
@[simp] theorem State.pushHandler_inputs (c : StCode) : (s.pushHandler c).inputs = s.inputs := rfl
@[simp] theorem State.pushHandler_draws (c : StCode) : (s.pushHandler c).draws = s.draws := rfl
@[simp] theorem State.pushHandler_params (c : StCode) : (s.pushHandler c).params = s.params := rfl

/-! ### State.clearPend -/

@[simp] theorem State.clearPend_sad : (s.clearPend).sad = s.sad := rfl
@[simp] theorem State.clearPend_buf : (s.clearPend).buf = s.buf := rfl
@[simp] theorem State.clearPend_len : (s.clearPend).len = s.len := rfl
@[simp] theorem State.clearPend_cur : (s.clearPend).cur = s.cur := rfl
@[simp] theorem State.clearPend_state : (s.clearPend).state = s.state := rfl
@[simp] theorem State.clearPend_lastErr : (s.clearPend).lastErr = s.lastErr := rfl
@[simp] theorem State.clearPend_fault : (s.clearPend).fault = s.fault := rfl
@[simp] theorem State.clearPend_refused : (s.clearPend).refused = s.refused := rfl
@[simp] theorem State.clearPend_ct : (s.clearPend).ct = s.ct := rfl
@[simp] theorem State.clearPend_ht : (s.clearPend).ht = s.ht := rfl
@[simp] theorem State.clearPend_mem : (s.clearPend).mem = s.mem := rfl
@[simp] theorem State.clearPend_pend : (s.clearPend).pend = false := rfl
@[simp] theorem State.clearPend_launchesOwed : (s.clearPend).launchesOwed = s.launchesOwed := rfl
@[simp] theorem State.clearPend_inputs : (s.clearPend).inputs = s.inputs := rfl
@[simp] theorem State.clearPend_draws : (s.clearPend).draws = s.draws := rfl
@[simp] theorem State.clearPend_params : (s.clearPend).params = s.params := rfl

/-! ### State.setLaunchesOwed -/

@[simp] theorem State.setLaunchesOwed_sad (k : Nat) : (s.setLaunchesOwed k).sad = s.sad := rfl
@[simp] theorem State.setLaunchesOwed_buf (k : Nat) : (s.setLaunchesOwed k).buf = s.buf := rfl
@[simp] theorem State.setLaunchesOwed_len (k : Nat) : (s.setLaunchesOwed k).len = s.len := rfl
@[simp] theorem State.setLaunchesOwed_cur (k : Nat) : (s.setLaunchesOwed k).cur = s.cur := rfl
@[simp] theorem State.setLaunchesOwed_state (k : Nat) : (s.setLaunchesOwed k).state = s.state := rfl
@[simp] theorem State.setLaunchesOwed_lastErr (k : Nat) : (s.setLaunchesOwed k).lastErr = s.lastErr := rfl
@[simp] theorem State.setLaunchesOwed_fault (k : Nat) : (s.setLaunchesOwed k).fault = s.fault := rfl
@[simp] theorem State.setLaunchesOwed_refused (k : Nat) : (s.setLaunchesOwed k).refused = s.refused := rfl
@[simp] theorem State.setLaunchesOwed_ct (k : Nat) : (s.setLaunchesOwed k).ct = s.ct := rfl
@[simp] theorem State.setLaunchesOwed_ht (k : Nat) : (s.setLaunchesOwed k).ht = s.ht := rfl
@[simp] theorem State.setLaunchesOwed_mem (k : Nat) : (s.setLaunchesOwed k).mem = s.mem := rfl
@[simp] theorem State.setLaunchesOwed_pend (k : Nat) : (s.setLaunchesOwed k).pend = s.pend := rfl
@[simp] theorem State.setLaunchesOwed_launchesOwed (k : Nat) : (s.setLaunchesOwed k).launchesOwed = k := rfl
@[simp] theorem State.setLaunchesOwed_inputs (k : Nat) : (s.setLaunchesOwed k).inputs = s.inputs := rfl
@[simp] theorem State.setLaunchesOwed_draws (k : Nat) : (s.setLaunchesOwed k).draws = s.draws := rfl
@[simp] theorem State.setLaunchesOwed_params (k : Nat) : (s.setLaunchesOwed k).params = s.params := rfl

/-! ### State.nextDraw -/

@[simp] theorem State.nextDraw_sad : (s.nextDraw).sad = s.sad := rfl
@[simp] theorem State.nextDraw_buf : (s.nextDraw).buf = s.buf := rfl
@[simp] theorem State.nextDraw_len : (s.nextDraw).len = s.len := rfl
@[simp] theorem State.nextDraw_cur : (s.nextDraw).cur = s.cur := rfl
@[simp] theorem State.nextDraw_state : (s.nextDraw).state = s.state := rfl
@[simp] theorem State.nextDraw_lastErr : (s.nextDraw).lastErr = s.lastErr := rfl
@[simp] theorem State.nextDraw_fault : (s.nextDraw).fault = s.fault := rfl
@[simp] theorem State.nextDraw_refused : (s.nextDraw).refused = s.refused := rfl
@[simp] theorem State.nextDraw_ct : (s.nextDraw).ct = s.ct := rfl
@[simp] theorem State.nextDraw_ht : (s.nextDraw).ht = s.ht := rfl
@[simp] theorem State.nextDraw_mem : (s.nextDraw).mem = s.mem := rfl
@[simp] theorem State.nextDraw_pend : (s.nextDraw).pend = s.pend := rfl
@[simp] theorem State.nextDraw_launchesOwed : (s.nextDraw).launchesOwed = s.launchesOwed := rfl
@[simp] theorem State.nextDraw_inputs : (s.nextDraw).inputs = s.inputs := rfl
@[simp] theorem State.nextDraw_draws : (s.nextDraw).draws = s.draws + 1 := rfl
@[simp] theorem State.nextDraw_params : (s.nextDraw).params = s.params := rfl

/-! ### State.setInputs -/

@[simp] theorem State.setInputs_sad (l : List Event) : (s.setInputs l).sad = s.sad := rfl
@[simp] theorem State.setInputs_buf (l : List Event) : (s.setInputs l).buf = s.buf := rfl
@[simp] theorem State.setInputs_len (l : List Event) : (s.setInputs l).len = s.len := rfl
@[simp] theorem State.setInputs_cur (l : List Event) : (s.setInputs l).cur = s.cur := rfl
@[simp] theorem State.setInputs_state (l : List Event) : (s.setInputs l).state = s.state := rfl
@[simp] theorem State.setInputs_lastErr (l : List Event) : (s.setInputs l).lastErr = s.lastErr := rfl
@[simp] theorem State.setInputs_fault (l : List Event) : (s.setInputs l).fault = s.fault := rfl
@[simp] theorem State.setInputs_refused (l : List Event) : (s.setInputs l).refused = s.refused := rfl
@[simp] theorem State.setInputs_ct (l : List Event) : (s.setInputs l).ct = s.ct := rfl
@[simp] theorem State.setInputs_ht (l : List Event) : (s.setInputs l).ht = s.ht := rfl
@[simp] theorem State.setInputs_mem (l : List Event) : (s.setInputs l).mem = s.mem := rfl
@[simp] theorem State.setInputs_pend (l : List Event) : (s.setInputs l).pend = s.pend := rfl
@[simp] theorem State.setInputs_launchesOwed (l : List Event) : (s.setInputs l).launchesOwed = s.launchesOwed := rfl
@[simp] theorem State.setInputs_inputs (l : List Event) : (s.setInputs l).inputs = l := rfl
@[simp] theorem State.setInputs_draws (l : List Event) : (s.setInputs l).draws = s.draws := rfl
@[simp] theorem State.setInputs_params (l : List Event) : (s.setInputs l).params = s.params := rfl

/-! ### State.markFault -/

@[simp] theorem State.markFault_sad (r : FaultRecord) : (s.markFault r).sad = s.sad := rfl
@[simp] theorem State.markFault_buf (r : FaultRecord) : (s.markFault r).buf = s.buf := rfl
@[simp] theorem State.markFault_len (r : FaultRecord) : (s.markFault r).len = s.len := rfl
@[simp] theorem State.markFault_cur (r : FaultRecord) : (s.markFault r).cur = s.cur := rfl
@[simp] theorem State.markFault_state (r : FaultRecord) : (s.markFault r).state = s.state := rfl
@[simp] theorem State.markFault_lastErr (r : FaultRecord) : (s.markFault r).lastErr = s.lastErr := rfl
@[simp] theorem State.markFault_fault (r : FaultRecord) : (s.markFault r).fault = some r := rfl
@[simp] theorem State.markFault_refused (r : FaultRecord) : (s.markFault r).refused = s.refused := rfl
@[simp] theorem State.markFault_ct (r : FaultRecord) : (s.markFault r).ct = s.ct := rfl
@[simp] theorem State.markFault_ht (r : FaultRecord) : (s.markFault r).ht = s.ht := rfl
@[simp] theorem State.markFault_mem (r : FaultRecord) : (s.markFault r).mem = s.mem := rfl
@[simp] theorem State.markFault_pend (r : FaultRecord) : (s.markFault r).pend = s.pend := rfl
@[simp] theorem State.markFault_launchesOwed (r : FaultRecord) : (s.markFault r).launchesOwed = s.launchesOwed := rfl
@[simp] theorem State.markFault_inputs (r : FaultRecord) : (s.markFault r).inputs = s.inputs := rfl
@[simp] theorem State.markFault_draws (r : FaultRecord) : (s.markFault r).draws = s.draws := rfl
@[simp] theorem State.markFault_params (r : FaultRecord) : (s.markFault r).params = s.params := rfl

/-! ### State.markRefused -/

@[simp] theorem State.markRefused_sad (r : RefusalReason) : (s.markRefused r).sad = s.sad := rfl
@[simp] theorem State.markRefused_buf (r : RefusalReason) : (s.markRefused r).buf = s.buf := rfl
@[simp] theorem State.markRefused_len (r : RefusalReason) : (s.markRefused r).len = s.len := rfl
@[simp] theorem State.markRefused_cur (r : RefusalReason) : (s.markRefused r).cur = s.cur := rfl
@[simp] theorem State.markRefused_state (r : RefusalReason) : (s.markRefused r).state = s.state := rfl
@[simp] theorem State.markRefused_lastErr (r : RefusalReason) : (s.markRefused r).lastErr = s.lastErr := rfl
@[simp] theorem State.markRefused_fault (r : RefusalReason) : (s.markRefused r).fault = s.fault := rfl
@[simp] theorem State.markRefused_refused (r : RefusalReason) : (s.markRefused r).refused = some r := rfl
@[simp] theorem State.markRefused_ct (r : RefusalReason) : (s.markRefused r).ct = s.ct := rfl
@[simp] theorem State.markRefused_ht (r : RefusalReason) : (s.markRefused r).ht = s.ht := rfl
@[simp] theorem State.markRefused_mem (r : RefusalReason) : (s.markRefused r).mem = s.mem := rfl
@[simp] theorem State.markRefused_pend (r : RefusalReason) : (s.markRefused r).pend = s.pend := rfl
@[simp] theorem State.markRefused_launchesOwed (r : RefusalReason) : (s.markRefused r).launchesOwed = s.launchesOwed := rfl
@[simp] theorem State.markRefused_inputs (r : RefusalReason) : (s.markRefused r).inputs = s.inputs := rfl
@[simp] theorem State.markRefused_draws (r : RefusalReason) : (s.markRefused r).draws = s.draws := rfl
@[simp] theorem State.markRefused_params (r : RefusalReason) : (s.markRefused r).params = s.params := rfl

/-! ### State.setMem -/

@[simp] theorem State.setMem_sad (m : Memory) : (s.setMem m).sad = s.sad := rfl
@[simp] theorem State.setMem_buf (m : Memory) : (s.setMem m).buf = s.buf := rfl
@[simp] theorem State.setMem_len (m : Memory) : (s.setMem m).len = s.len := rfl
@[simp] theorem State.setMem_cur (m : Memory) : (s.setMem m).cur = s.cur := rfl
@[simp] theorem State.setMem_state (m : Memory) : (s.setMem m).state = s.state := rfl
@[simp] theorem State.setMem_lastErr (m : Memory) : (s.setMem m).lastErr = s.lastErr := rfl
@[simp] theorem State.setMem_fault (m : Memory) : (s.setMem m).fault = s.fault := rfl
@[simp] theorem State.setMem_refused (m : Memory) : (s.setMem m).refused = s.refused := rfl
@[simp] theorem State.setMem_ct (m : Memory) : (s.setMem m).ct = s.ct := rfl
@[simp] theorem State.setMem_ht (m : Memory) : (s.setMem m).ht = s.ht := rfl
@[simp] theorem State.setMem_mem (m : Memory) : (s.setMem m).mem = m := rfl
@[simp] theorem State.setMem_pend (m : Memory) : (s.setMem m).pend = s.pend := rfl
@[simp] theorem State.setMem_launchesOwed (m : Memory) : (s.setMem m).launchesOwed = s.launchesOwed := rfl
@[simp] theorem State.setMem_inputs (m : Memory) : (s.setMem m).inputs = s.inputs := rfl
@[simp] theorem State.setMem_draws (m : Memory) : (s.setMem m).draws = s.draws := rfl
@[simp] theorem State.setMem_params (m : Memory) : (s.setMem m).params = s.params := rfl

/-! ### State.sendCmd -/

@[simp] theorem State.sendCmd_sad (c : Cmd) : (s.sendCmd c).sad = s.sad := rfl
@[simp] theorem State.sendCmd_buf (c : Cmd) : (s.sendCmd c).buf = s.buf := rfl
@[simp] theorem State.sendCmd_len (c : Cmd) : (s.sendCmd c).len = s.len := rfl
@[simp] theorem State.sendCmd_cur (c : Cmd) : (s.sendCmd c).cur = s.cur := rfl
@[simp] theorem State.sendCmd_state (c : Cmd) : (s.sendCmd c).state = s.state := rfl
@[simp] theorem State.sendCmd_lastErr (c : Cmd) : (s.sendCmd c).lastErr = s.lastErr := rfl
@[simp] theorem State.sendCmd_fault (c : Cmd) : (s.sendCmd c).fault = s.fault := rfl
@[simp] theorem State.sendCmd_refused (c : Cmd) : (s.sendCmd c).refused = s.refused := rfl
@[simp] theorem State.sendCmd_ct (c : Cmd) : (s.sendCmd c).ct = s.ct ++ [c] := rfl
@[simp] theorem State.sendCmd_ht (c : Cmd) : (s.sendCmd c).ht = s.ht := rfl
@[simp] theorem State.sendCmd_mem (c : Cmd) : (s.sendCmd c).mem = s.mem := rfl
@[simp] theorem State.sendCmd_pend (c : Cmd) : (s.sendCmd c).pend = cmdOwes c := rfl
@[simp] theorem State.sendCmd_launchesOwed (c : Cmd) : (s.sendCmd c).launchesOwed = s.launchesOwed := rfl
@[simp] theorem State.sendCmd_inputs (c : Cmd) : (s.sendCmd c).inputs = s.inputs := rfl
@[simp] theorem State.sendCmd_draws (c : Cmd) : (s.sendCmd c).draws = s.draws := rfl
@[simp] theorem State.sendCmd_params (c : Cmd) : (s.sendCmd c).params = s.params := rfl

end Sys2Proof.Machine
end

