-- ==== Sys2Proof/Laws/Ops.lean ====
section
/-! SUPPORT. What each shared operation can do, said once: the ends of an operation, the buffer access, the peripheral read. -/

namespace Sys2Proof.Machine

/-! ### Parts and ends of an operation -/

@[simp] theorem Effect.bind_done {α β : Type} (a : α) (f : α → Effect β) : (Effect.done a).bind f = f a := rfl

@[simp] theorem Effect.bind_raise {α β : Type} (r : FaultRecord) (f : α → Effect β) :
    (Effect.raise r).bind f = .raise r := rfl

@[simp] theorem Effect.bind_stuck {α β : Type} (a : Nat) (f : α → Effect β) : (Effect.stuck a).bind f = .stuck a := rfl

/-- A composed part completes exactly when both its parts do. -/
theorem Effect.bind_eq_done {α β : Type} {x : Effect α} {f : α → Effect β} {b : β} :
    x.bind f = .done b ↔ ∃ a, x = .done a ∧ f a = .done b := by
  cases x <;> simp

/-- A composed part raises what its first part raises, or what the second raises after it. -/
theorem Effect.bind_eq_raise {α β : Type} {x : Effect α} {f : α → Effect β} {r : FaultRecord} :
    x.bind f = .raise r ↔ x = .raise r ∨ ∃ a, x = .done a ∧ f a = .raise r := by
  cases x <;> simp

@[simp] theorem finish_done (s t : State) : finish s (.done t) = .next t := rfl

@[simp] theorem finish_raise (s : State) (r : FaultRecord) : finish s (.raise r) = .next (s.markFault r) := rfl

@[simp] theorem finish_stuck (s : State) (a : Nat) : finish s (.stuck a) = .fault (.stuck a) := rfl

/-- An operation's end is a next state in two ways: it completes, or it raises a fault and only FAULT changes (R167). -/
theorem finish_eq_next {s t : State} {x : Effect State} :
    finish s x = .next t ↔ x = .done t ∨ ∃ r, x = .raise r ∧ t = s.markFault r := by
  cases x <;> simp [eq_comm]

/-- The codes of the fault reasons are 1 to 5 (R166). -/
theorem faultCode_range (r : FaultRecord) : 1 ≤ faultCode r ∧ faultCode r ≤ 5 := by
  cases r <;> simp [faultCode]

/-- Nothing steps once a mark is set (R130, R165, R79; log 23). -/
theorem whenRunning_eq_next {s t : State} {k : State → Host.Outcome State Fault Refusal} :
    whenRunning s k = .next t ↔ s.fault = none ∧ s.refused = none ∧ k s = .next t := by
  unfold whenRunning
  cases hf : s.fault <;> cases hr : s.refused <;> simp

theorem whenRunning_of_clear {s : State} (k : State → Host.Outcome State Fault Refusal) (hf : s.fault = none)
    (hr : s.refused = none) : whenRunning s k = k s := by
  simp [whenRunning, hf, hr]

theorem whenRunning_of_fault {s : State} {r : FaultRecord} (k : State → Host.Outcome State Fault Refusal)
    (hf : s.fault = some r) : whenRunning s k = .fault (.faulted r) := by
  simp [whenRunning, hf]

theorem whenRunning_of_refused {s : State} {r : RefusalReason} (k : State → Host.Outcome State Fault Refusal)
    (hf : s.fault = none) (hr : s.refused = some r) : whenRunning s k = .refused (.requestRefused r) := by
  simp [whenRunning, hf, hr]

/-- Everything an operation that answers a next state can have done. -/
theorem operation_eq_next {body : State → Effect State} {s t : State} :
    operation body s = .next t ↔
      s.fault = none ∧ s.refused = none ∧ (body s = .done t ∨ ∃ r, body s = .raise r ∧ t = s.markFault r) := by
  simp only [operation, whenRunning_eq_next, finish_eq_next]

/-- An operation whose marks are clear ends as its body does. -/
theorem operation_of_clear {body : State → Effect State} {s : State} (hf : s.fault = none) (hr : s.refused = none) :
    operation body s = finish s (body s) := by
  simp [operation, whenRunning_of_clear _ hf hr]

/-! ### The buffer access -/

/-- The buffer access gives BUF + CUR exactly when CUR < LEN and MemAdmit takes that address (R52, R53, R106). -/
theorem bufAccess_eq_done {s : State} {a : Nat} :
    bufAccess s = .done a ↔ s.cur < s.len ∧ memAdmit s.params (s.buf + s.cur) = true ∧ a = s.buf + s.cur := by
  unfold bufAccess bufAddr
  have hpos : 0 < 2 ^ s.params.bufAddrBits := Nat.two_pow_pos _
  split
  · simp
    omega
  · split
    · rename_i h
      simp only [Effect.bind_raise, reduceCtorEq, false_iff, not_and]
      intro _ hadm
      simp [memAdmit] at hadm
      omega
    · simp only [Effect.bind_done]
      split <;> simp_all
      exact ⟨Eq.symm, Eq.symm⟩

/-- BufferOverrun comes first (R169). -/
theorem bufAccess_overrun {s : State} (h : s.len ≤ s.cur) : bufAccess s = .raise (.bufferOverrun s.state s.cur s.len) := by
  simp [bufAccess, h]

/-- AddressOverflow comes second (R52, R169). -/
theorem bufAccess_overflow {s : State} (h : s.cur < s.len) (ho : 2 ^ s.params.bufAddrBits ≤ s.buf + s.cur) :
    bufAccess s = .raise (.addressOverflow s.buf s.cur) := by
  have hpos : 0 < 2 ^ s.params.bufAddrBits := Nat.two_pow_pos _
  have h1 : ¬ s.len ≤ s.cur := by omega
  have h2 : s.buf + s.cur > 2 ^ s.params.bufAddrBits - 1 := by omega
  simp [bufAccess, bufAddr, h1, h2]

/-- MemAdmit comes third (R53, R169). -/
theorem bufAccess_stuck {s : State} (h : s.cur < s.len) (hi : s.buf + s.cur < 2 ^ s.params.bufAddrBits)
    (ha : memAdmit s.params (s.buf + s.cur) = false) : bufAccess s = .stuck (s.buf + s.cur) := by
  have h1 : ¬ s.len ≤ s.cur := by omega
  have h2 : ¬ s.buf + s.cur > 2 ^ s.params.bufAddrBits - 1 := by omega
  simp [bufAccess, bufAddr, h1, h2, ha]

/-- The buffer access reads BUF, LEN, CUR, STATE and the parameters only. -/
theorem bufAccess_congr {s t : State} (hb : t.buf = s.buf) (hl : t.len = s.len) (hc : t.cur = s.cur)
    (hs : t.state = s.state) (hp : t.params = s.params) : bufAccess t = bufAccess s := by
  simp [bufAccess, bufAddr, hb, hl, hc, hs, hp]

/-! ### The peripheral read -/

@[simp] theorem periphRead_some_fst (v : Byte) (s : State) : (periphRead (some v) s).1 = v := rfl

@[simp] theorem periphRead_some_snd (v : Byte) (s : State) : (periphRead (some v) s).2 = s.sendCmd (.readData v) := rfl

@[simp] theorem periphRead_none_fst (s : State) : (periphRead none s).1 = Config.freeRead s.draws := rfl

@[simp] theorem periphRead_none_snd (s : State) :
    (periphRead none s).2 = s.nextDraw.sendCmd (.readData (Config.freeRead s.draws)) := rfl

/-! ### Operands -/

/-- The direction bit of the byte LAUNCH builds is its D (R82, R104). -/
@[simp] theorem sadIsRead_sadOf : ∀ (addr : BitVec 7) (read : Bool), sadIsRead (sadOf addr read) = read := by
  decide

@[simp] theorem inBuffer_iff (s : State) (a : Nat) : inBuffer s a = true ↔ s.buf ≤ a ∧ a < s.buf + s.len := by
  simp [inBuffer]

theorem isActive_of_idle {s : State} (h : s.state = stateCode .idle) : isActive s = false := by
  simp [isActive, h]

@[simp] theorem isActive_iff (s : State) : isActive s = true ↔ s.state ≠ stateCode .idle := by
  simp [isActive]

end Sys2Proof.Machine
end

