-- ==== Sys2Proof/Laws/Handlers.lean ====
section
/-! SUPPORT. What the override, a handler and a dispatch can do, said once. -/

namespace Sys2Proof.Machine

/-! ### The override: the fields it leaves alone -/

section
variable (k l b : Bool) (s : State)

@[simp] theorem override_none : override false false false s = s := rfl

@[simp] theorem override_sad : (override k l b s).sad = s.sad := by cases k <;> cases l <;> cases b <;> rfl
@[simp] theorem override_buf : (override k l b s).buf = s.buf := by cases k <;> cases l <;> cases b <;> rfl
@[simp] theorem override_len : (override k l b s).len = s.len := by cases k <;> cases l <;> cases b <;> rfl
@[simp] theorem override_cur : (override k l b s).cur = s.cur := by cases k <;> cases l <;> cases b <;> rfl
@[simp] theorem override_fault : (override k l b s).fault = s.fault := by cases k <;> cases l <;> cases b <;> rfl
@[simp] theorem override_refused : (override k l b s).refused = s.refused := by
  cases k <;> cases l <;> cases b <;> rfl
@[simp] theorem override_ct : (override k l b s).ct = s.ct := by cases k <;> cases l <;> cases b <;> rfl
@[simp] theorem override_ht : (override k l b s).ht = s.ht := by cases k <;> cases l <;> cases b <;> rfl
@[simp] theorem override_mem : (override k l b s).mem = s.mem := by cases k <;> cases l <;> cases b <;> rfl
@[simp] theorem override_pend : (override k l b s).pend = s.pend := by cases k <;> cases l <;> cases b <;> rfl
@[simp] theorem override_launchesOwed : (override k l b s).launchesOwed = s.launchesOwed := by
  cases k <;> cases l <;> cases b <;> rfl
@[simp] theorem override_inputs : (override k l b s).inputs = s.inputs := by cases k <;> cases l <;> cases b <;> rfl
@[simp] theorem override_draws : (override k l b s).draws = s.draws := by cases k <;> cases l <;> cases b <;> rfl
@[simp] theorem override_params : (override k l b s).params = s.params := by cases k <;> cases l <;> cases b <;> rfl

/-- With a flag set the forced state is one of the three error states. -/
theorem override_forces (h : (k || l || b) = true) :
    ∃ q, (q = .nackReceived ∨ q = .arbitrationLost ∨ q = .busError) ∧ (override k l b s).state = stateCode q := by
  cases k <;> cases l <;> cases b
  case false.false.false => cases h
  all_goals first
    | exact ⟨.busError, by simp, rfl⟩
    | exact ⟨.arbitrationLost, by simp, rfl⟩
    | exact ⟨.nackReceived, by simp, rfl⟩

end

/-! ### Handlers -/

/-- Everything a handler that completes can have done: its state after and the next state of the FSM. -/
theorem handler_done_cases {q : FsmState} {rd : Option Byte} {s : State} {r : State × FsmState}
    (h : handler q rd s = .done r) :
    (q = .idle ∧ r = (s, .idle)) ∨
    (q = .start ∧ r = (s.sendCmd (.issueAddr s.sad), if sadIsRead s.sad then .receiveByte else .transmitByte)) ∨
    ((q = .stop ∨ q = .nackReceived ∨ q = .arbitrationLost ∨ q = .busError) ∧ r = (s.sendCmd .issueStop, .idle)) ∨
    (q = .reset ∧ r = ((s.sendCmd .flush).sendCmd .forceIdle, .idle)) ∨
    (q = .transmitByte ∧ ∃ a, bufAccess s = .done a ∧
      r = advance .transmitByte (s.sendCmd (.writeData (memRead s.mem a)))) ∨
    (q = .receiveByte ∧ ∃ a, bufAccess s = .done a ∧
      r = advance .receiveByte
        ((periphRead rd s).2.setMem (memWrite (periphRead rd s).2.mem a (periphRead rd s).1))) := by
  cases q <;>
    simp [handler, hIdle, hStart, hStop, hReset, hNack, hArb, hBuserr, stopBus, hTx, hRx, Effect.bind_eq_done] at h ⊢
  case transmitByte =>
    obtain ⟨a, ha, hr⟩ := h
    exact ⟨a, ha, hr.symm⟩
  case receiveByte =>
    obtain ⟨a, ha, hr⟩ := h
    exact ⟨a, ha, hr.symm⟩
  all_goals exact h.symm

/-- The fields no handler writes. -/
theorem handler_frame {q : FsmState} {rd : Option Byte} {s : State} {r : State × FsmState}
    (h : handler q rd s = .done r) :
    r.1.sad = s.sad ∧ r.1.buf = s.buf ∧ r.1.len = s.len ∧ r.1.lastErr = s.lastErr ∧ r.1.fault = s.fault ∧
      r.1.refused = s.refused ∧ r.1.ht = s.ht ∧ r.1.launchesOwed = s.launchesOwed ∧ r.1.inputs = s.inputs ∧
      r.1.params = s.params := by
  rcases handler_done_cases h with ⟨_, rfl⟩ | ⟨_, rfl⟩ | ⟨_, rfl⟩ | ⟨_, rfl⟩ | ⟨_, a, _, rfl⟩ | ⟨_, a, _, rfl⟩
  case inr.inr.inr.inr.inr => cases rd <;> simp [advance]
  all_goals simp [advance]

/-- Only H_TX and H_RX raise a fault, and they raise what their buffer access raises. -/
theorem handler_raise {q : FsmState} {rd : Option Byte} {s : State} {e : FaultRecord}
    (h : handler q rd s = .raise e) : (q = .transmitByte ∨ q = .receiveByte) ∧ bufAccess s = .raise e := by
  cases q <;>
    simp [handler, hIdle, hStart, hStop, hReset, hNack, hArb, hBuserr, stopBus, hTx, hRx, Effect.bind_eq_raise] at h ⊢
  all_goals exact h

/-! ### Dispatch -/

theorem dispatch_of_code {rd : Option Byte} {s : State} {q : FsmState} (h : stateOfCode s.state = some q) :
    dispatch rd s = dispatchOf q (handler q rd) s := by
  simp [dispatch, h]

theorem dispatch_illegal {rd : Option Byte} {s : State} (h : stateOfCode s.state = none) :
    dispatch rd s = .raise (.illegalState s.state) := by
  simp [dispatch, h]

/-- A dispatch that completes ran the handler of STATE once and stored what it returned (R100). -/
theorem dispatchOf_eq_done {q : FsmState} {run : State → Effect (State × FsmState)} {s t : State} :
    dispatchOf q run s = .done t ↔ ∃ r, run (s.pushHandler (stateCode q)) = .done r ∧ t = r.1.setState r.2 := by
  simp only [dispatchOf, Effect.bind_eq_done, Effect.done.injEq]
  exact ⟨fun ⟨r, h, e⟩ => ⟨r, h, e.symm⟩, fun ⟨r, h, e⟩ => ⟨r, h, e.symm⟩⟩

theorem dispatch_eq_done {rd : Option Byte} {s t : State} :
    dispatch rd s = .done t ↔ ∃ q, stateOfCode s.state = some q ∧
      ∃ r, handler q rd (s.pushHandler (stateCode q)) = .done r ∧ t = r.1.setState r.2 := by
  cases h : stateOfCode s.state with
  | none => simp [dispatch_illegal h]
  | some q => simp [dispatch_of_code h, dispatchOf_eq_done]

/-- The row of a handler is the dispatch of its state outside an IRQ (R70). -/
theorem exec_handlerOf (q : FsmState) (s : State) :
    exec (handlerOf q) s = operation (dispatchOf q (handler q none)) s := by
  cases q <;> rfl

end Sys2Proof.Machine
end

