-- ==== Sys2Proof/Laws/Memory.lean ====
section
/-! SUPPORT. Caller memory: every operation on it keeps the canonical form, a read after a write to the same address gives the
byte written, and a write leaves every other address alone. -/

namespace Sys2Proof.Machine

theorem Memory.wf_nil : Memory.wf [] := by simp [Memory.wf]

theorem Memory.wf_tail {c : Host.Cell} {m : Memory} (h : Memory.wf (c :: m)) : m.wf := by
  obtain ⟨hp, hc⟩ := h
  exact ⟨(List.pairwise_cons.mp hp).2, fun d hd => hc d (List.mem_cons_of_mem c hd)⟩

theorem Memory.wf_head_lt {c : Host.Cell} {m : Memory} (h : Memory.wf (c :: m)) : ∀ d ∈ m, c.1 < d.1 :=
  (List.pairwise_cons.mp h.1).1

/-- An address below every listed one reads as unlisted. -/
theorem memRead_of_lt {m : Memory} {a : Nat} (h : ∀ d ∈ m, a < d.1) : memRead m a = unlistedByte a := by
  induction m with
  | nil => rfl
  | cons c rest ih =>
    have hc : c.1 ≠ a := by
      have := h c (by simp)
      omega
    simp only [memRead, hc, if_false]
    exact ih fun d hd => h d (List.mem_cons_of_mem c hd)

/-- What a write lists: the written address with its byte, or an entry that was there. -/
theorem mem_memWrite {m : Memory} {a : Nat} {v : Byte} {d : Host.Cell} (h : d ∈ memWrite m a v) :
    d = (a, v) ∨ d ∈ m := by
  induction m with
  | nil =>
    simp only [memWrite] at h
    split at h <;> simp_all
  | cons c rest ih =>
    simp only [memWrite] at h
    split at h
    · split at h <;> simp_all
    · split at h
      · split at h <;> simp_all
        tauto
      · rcases List.mem_cons.mp h with h | h
        · exact .inr (by simp [h])
        · rcases ih h with h | h
          · exact .inl h
          · exact .inr (List.mem_cons_of_mem c h)

/-- A write keeps the canonical form. -/
theorem memWrite_wf {m : Memory} (a : Nat) (v : Byte) (h : m.wf) : (memWrite m a v).wf := by
  induction m with
  | nil =>
    simp only [memWrite]
    split
    · exact Memory.wf_nil
    · exact ⟨by simp, by simpa using ‹_›⟩
  | cons c rest ih =>
    have hlt := Memory.wf_head_lt h
    have hrest := Memory.wf_tail h
    have hc := h.2 c (by simp)
    simp only [memWrite]
    split
    · split
      · exact h
      · refine ⟨List.pairwise_cons.mpr ⟨?_, h.1⟩, ?_⟩
        · intro d hd
          rcases List.mem_cons.mp hd with rfl | hd
          · assumption
          · have := hlt d hd
            simp only
            omega
        · intro d hd
          rcases List.mem_cons.mp hd with rfl | hd
          · assumption
          · exact h.2 d hd
    · split
      · split
        · exact hrest
        · refine ⟨List.pairwise_cons.mpr ⟨?_, hrest.1⟩, ?_⟩
          · intro d hd
            have := hlt d hd
            simp only
            omega
          · intro d hd
            rcases List.mem_cons.mp hd with rfl | hd
            · assumption
            · exact hrest.2 d hd
      · have ih := ih hrest
        refine ⟨List.pairwise_cons.mpr ⟨?_, ih.1⟩, ?_⟩
        · intro d hd
          rcases mem_memWrite hd with rfl | hd
          · simp only
            omega
          · exact hlt d hd
        · intro d hd
          rcases List.mem_cons.mp hd with rfl | hd
          · exact hc
          · exact ih.2 d hd

/-- A read after a write to the same address gives the byte written. -/
theorem memRead_memWrite_same {m : Memory} (a : Nat) (v : Byte) (h : m.wf) : memRead (memWrite m a v) a = v := by
  induction m with
  | nil =>
    simp only [memWrite]
    split <;> simp_all [memRead]
  | cons c rest ih =>
    have hlt := Memory.wf_head_lt h
    simp only [memWrite]
    split
    · split
      · rw [memRead_of_lt]
        · simp_all
        · intro d hd
          rcases List.mem_cons.mp hd with rfl | hd
          · assumption
          · have := hlt d hd
            omega
      · simp [memRead]
    · split
      · split
        · rw [memRead_of_lt]
          · simp_all
          · intro d hd
            have := hlt d hd
            omega
        · simp [memRead]
      · simp only [memRead, if_neg ‹_›]
        exact ih (Memory.wf_tail h)

/-- A write leaves every other address alone. -/
theorem memRead_memWrite_other {m : Memory} {a b : Nat} (v : Byte) (h : m.wf) (hab : b ≠ a) :
    memRead (memWrite m a v) b = memRead m b := by
  induction m with
  | nil =>
    simp only [memWrite]
    split
    · rfl
    · simp [memRead, hab.symm]
  | cons c rest ih =>
    have hlt := Memory.wf_head_lt h
    simp only [memWrite]
    split
    · split
      · rfl
      · simp [memRead, hab.symm]
    · split
      · rename_i hc
        have hcb : c.1 ≠ b := by omega
        split
        · simp [memRead, hcb]
        · simp [memRead, hcb, hab.symm]
      · simp only [memRead]
        rw [ih (Memory.wf_tail h)]

/-- A write keeps every listed address among those that satisfy `p`, if the written one does. -/
theorem memWrite_addresses {m : Memory} {a : Nat} (v : Byte) {p : Nat → Prop} (h : ∀ c ∈ m, p c.1) (ha : p a) :
    ∀ c ∈ memWrite m a v, p c.1 := by
  intro c hc
  rcases mem_memWrite hc with rfl | hc
  · exact ha
  · exact h c hc

/-- An admitted address is one of caller memory's. -/
theorem lt_of_memAdmit {p : Params} {a : Nat} (h : memAdmit p a = true) : a < 2 ^ p.bufAddrBits := by
  simp only [memAdmit, Bool.and_eq_true, decide_eq_true_eq] at h
  exact h.1

end Sys2Proof.Machine
end

