-- ==== Sys2Proof/Laws/PerInstr.lean ====
section
/-! SUPPORT. Per instruction: the encoder's bits belong to the instruction's own row of the opcode table and to no other
instruction's row (R78): the table, read as match/mask pairs, tells the instructions apart. -/

namespace Sys2Proof.Laws.TableRow

/-- One instruction of each row. -/
def rows : List Instr :=
  [.setBuffer 0 0, .launch 0 false, .irq false false false 0, .extReset,
    .hIdle, .hStart, .hStop, .hReset, .hTx, .hRx, .hNack, .hArb, .hBuserr]

/-- The encoder's bits fit the instruction's row, and every row they fit is that one. -/
def Statement (i : Instr) : Prop :=
  (encode i).fits (tableRow i) = true ∧
    ∀ j ∈ rows, (encode i).fits (tableRow j) = true → tableRow j = tableRow i

theorem setBuffer (ref n : Nat) : Statement (.setBuffer ref n) := by
  unfold Statement rows
  simp [encode, Encoded.fits, tableRow]

theorem launch_fits : ∀ (a : BitVec 7) (d : Bool), (launchWord a d).toNat &&& 0xF00F = 2 := by decide

theorem launch_low : ∀ (a : BitVec 7) (d : Bool), (launchWord a d).toNat % 16 = 2 := by decide

theorem irq_fits : ∀ (rd : Byte) (k l b : Bool), (irqWord k l b rd).toNat &&& 0x008F = 3 := by decide

theorem irq_low : ∀ (rd : Byte) (k l b : Bool), (irqWord k l b rd).toNat % 16 = 3 := by decide

/-- A number whose low four bits are not `p`'s fits no row with the pattern `p` and a mask of ones there. -/
theorem not_fits_of_low {x m p : Nat} (hm : m % 16 = 15) (hp : x % 16 ≠ p % 16) : x &&& m ≠ p := by
  intro h
  apply hp
  have hlow : (x &&& m) % 2 ^ 4 = x % 2 ^ 4 &&& (2 ^ 4 - 1) := by
    rw [Nat.and_mod_two_pow]
    exact congrArg (x % 2 ^ 4 &&& ·) hm
  rw [Nat.and_two_pow_sub_one_eq_mod, Nat.mod_mod, h] at hlow
  exact hlow.symm

theorem launch (a : BitVec 7) (d : Bool) : Statement (.launch a d) := by
  have hl := launch_low a d
  refine ⟨by simp [encode, Encoded.fits, tableRow, launch_fits], ?_⟩
  have h1 : (launchWord a d).toNat &&& 0xFFFF ≠ 1 := not_fits_of_low rfl (by omega)
  have h3 : (launchWord a d).toNat &&& 0x008F ≠ 3 := not_fits_of_low rfl (by omega)
  have h4 : (launchWord a d).toNat &&& 0xFFFF ≠ 4 := not_fits_of_low rfl (by omega)
  simp [rows, encode, Encoded.fits, tableRow, h1, h3, h4]

theorem irq (k l b : Bool) (rd : Byte) : Statement (.irq k l b rd) := by
  have hl := irq_low rd k l b
  refine ⟨by simp [encode, Encoded.fits, tableRow, irq_fits], ?_⟩
  have h1 : (irqWord k l b rd).toNat &&& 0xFFFF ≠ 1 := not_fits_of_low rfl (by omega)
  have h2 : (irqWord k l b rd).toNat &&& 0xF00F ≠ 2 := not_fits_of_low rfl (by omega)
  have h4 : (irqWord k l b rd).toNat &&& 0xFFFF ≠ 4 := not_fits_of_low rfl (by omega)
  simp [rows, encode, Encoded.fits, tableRow, h1, h2, h4]

theorem extReset : Statement .extReset := by
  unfold Statement rows
  simp [encode, Encoded.fits, tableRow]

theorem hIdle : Statement .hIdle := by
  unfold Statement rows
  simp [encode, Encoded.fits, tableRow]

theorem hStart : Statement .hStart := by
  unfold Statement rows
  simp [encode, Encoded.fits, tableRow]

theorem hStop : Statement .hStop := by
  unfold Statement rows
  simp [encode, Encoded.fits, tableRow]

theorem hReset : Statement .hReset := by
  unfold Statement rows
  simp [encode, Encoded.fits, tableRow]

theorem hTx : Statement .hTx := by
  unfold Statement rows
  simp [encode, Encoded.fits, tableRow]

theorem hRx : Statement .hRx := by
  unfold Statement rows
  simp [encode, Encoded.fits, tableRow]

theorem hNack : Statement .hNack := by
  unfold Statement rows
  simp [encode, Encoded.fits, tableRow]

theorem hArb : Statement .hArb := by
  unfold Statement rows
  simp [encode, Encoded.fits, tableRow]

theorem hBuserr : Statement .hBuserr := by
  unfold Statement rows
  simp [encode, Encoded.fits, tableRow]

end Sys2Proof.Laws.TableRow
end

