-- ==== Sys2Proof/Laws/Step.lean ====
section
/-! SUPPORT. What one step can do, said once, and the induction over a run. -/

namespace Sys2Proof.Machine

/-! ### The move that is taken -/

section
variable (s : State)

@[simp] theorem takeEvent_sad : (takeEvent s).sad = s.sad := by unfold takeEvent; split <;> rfl
@[simp] theorem takeEvent_buf : (takeEvent s).buf = s.buf := by unfold takeEvent; split <;> rfl
@[simp] theorem takeEvent_len : (takeEvent s).len = s.len := by unfold takeEvent; split <;> rfl
@[simp] theorem takeEvent_cur : (takeEvent s).cur = s.cur := by unfold takeEvent; split <;> rfl
@[simp] theorem takeEvent_state : (takeEvent s).state = s.state := by unfold takeEvent; split <;> rfl
@[simp] theorem takeEvent_lastErr : (takeEvent s).lastErr = s.lastErr := by unfold takeEvent; split <;> rfl
@[simp] theorem takeEvent_fault : (takeEvent s).fault = s.fault := by unfold takeEvent; split <;> rfl
@[simp] theorem takeEvent_refused : (takeEvent s).refused = s.refused := by unfold takeEvent; split <;> rfl
@[simp] theorem takeEvent_ct : (takeEvent s).ct = s.ct := by unfold takeEvent; split <;> rfl
@[simp] theorem takeEvent_ht : (takeEvent s).ht = s.ht := by unfold takeEvent; split <;> rfl
@[simp] theorem takeEvent_mem : (takeEvent s).mem = s.mem := by unfold takeEvent; split <;> rfl
@[simp] theorem takeEvent_pend : (takeEvent s).pend = s.pend := by unfold takeEvent; split <;> rfl
@[simp] theorem takeEvent_launchesOwed : (takeEvent s).launchesOwed = s.launchesOwed := by
  unfold takeEvent; split <;> rfl
@[simp] theorem takeEvent_params : (takeEvent s).params = s.params := by unfold takeEvent; split <;> rfl

end

theorem nextEvent_cons {s : State} {e : Event} {rest : List Event} (h : s.inputs = e :: rest) : nextEvent s = e := by
  simp [nextEvent, h]

theorem takeEvent_cons {s : State} {e : Event} {rest : List Event} (h : s.inputs = e :: rest) :
    takeEvent s = s.setInputs rest := by
  simp [takeEvent, h]

/-! ### One step -/

/-- A step that answers a next state: the marks were clear, and the next move had its effect. -/
theorem step_eq_next {s t : State} :
    step s = .next t ↔ s.fault = none ∧ s.refused = none ∧ runEvent (nextEvent s) (takeEvent s) = .next t := by
  simp only [step, runNext, whenRunning_eq_next]

/-- Everything a move that answers a next state can have done: nothing, a refusal, a request, the dispatch of a LAUNCH_B, or
a host write. -/
theorem runEvent_cases {e : Event} {s t : State} (h : runEvent e s = .next t) :
    (t = s ∧ deliversIrq e = false) ∨
    (∃ r, t = s.markRefused r) ∨
    (∃ ctx w ref n i, e = .request ctx w ref n ∧ decodeRequest w ref n = .ok i ∧ issuer i = ctx ∧ exec i s = .next t) ∨
    (e = .launchB ∧ 0 < s.launchesOwed ∧ ∃ q, stateOfCode s.state = some q ∧
      exec (handlerOf q) (s.setLaunchesOwed (s.launchesOwed - 1)) = .next t) ∨
    (e = .launchB ∧ 0 < s.launchesOwed ∧ stateOfCode s.state = none ∧ t = s.markFault (.illegalState s.state)) ∨
    (∃ a v, e = .hostWrite a v ∧ isActive s = true ∧ inBuffer s a = true ∧
      t = s.markFault (.bufferWriteWhileBusy s.state a)) ∨
    (∃ a v, e = .hostWrite a v ∧ (isActive s = true → inBuffer s a = false) ∧ memAdmit s.params a = true ∧
      t = s.setMem (memWrite s.mem a v)) := by
  cases e with
  | quiet => exact .inl ⟨by simpa [runEvent] using h.symm, rfl⟩
  | hostReadReg r => exact .inl ⟨by simpa [runEvent] using h.symm, rfl⟩
  | hostRead a =>
    simp only [runEvent, hostReadBody] at h
    split at h
    · exact .inl ⟨by simpa using h.symm, rfl⟩
    · simp at h
  | request ctx w ref n =>
    simp only [runEvent, runRequest] at h
    split at h
    · exact .inr (.inl ⟨_, by simpa using h.symm⟩)
    · split at h
      · exact .inr (.inr (.inl ⟨ctx, w, ref, n, _, rfl, ‹_›, ‹_›, h⟩))
      · simp at h
  | launchB =>
    simp only [runEvent, runLaunchB, decodeState] at h
    split at h
    · simp at h
    · have hpos : 0 < s.launchesOwed := by omega
      cases hq : stateOfCode s.state with
      | some q =>
        simp only [hq, Option.map_some] at h
        exact .inr (.inr (.inr (.inl ⟨rfl, hpos, q, rfl, h⟩)))
      | none =>
        simp only [hq, Option.map_none] at h
        exact .inr (.inr (.inr (.inr (.inl ⟨rfl, hpos, rfl, by simpa using h.symm⟩))))
  | hostWrite a v =>
    simp only [runEvent, hostWriteBody] at h
    split at h
    · rename_i hb
      simp only [Bool.and_eq_true] at hb
      exact .inr (.inr (.inr (.inr (.inr (.inl ⟨a, v, rfl, hb.1, hb.2, by simpa using h.symm⟩)))))
    · rename_i hb
      split at h
      · refine .inr (.inr (.inr (.inr (.inr (.inr ⟨a, v, rfl, ?_, ‹_›, by simpa using h.symm⟩)))))
        exact fun hact => Bool.eq_false_iff.mpr fun hin => hb (by rw [hact, hin]; rfl)
      · simp at h

/-- A request word decodes to one of the four requests. -/
theorem decodeRequest_ok {w : ReqWord} {ref n : Nat} {i : Instr} (h : decodeRequest w ref n = .ok i) :
    i = .setBuffer ref n ∨ (∃ a d, i = .launch a d) ∨ (∃ k l b rd, i = .irq k l b rd) ∨ i = .extReset := by
  unfold decodeRequest at h
  split at h
  · split at h
    · cases h
    · exact .inl (Except.ok.inj h).symm
  · split at h
    · cases h
    · exact .inr (.inl ⟨_, _, (Except.ok.inj h).symm⟩)
  · split at h
    · cases h
    · exact .inr (.inr (.inl ⟨_, _, _, _, (Except.ok.inj h).symm⟩))
  · split at h
    · cases h
    · exact .inr (.inr (.inr (Except.ok.inj h).symm))
  · cases h

/-! ### Runs -/

/-- What every step keeps holds after every number of steps. -/
theorem run_keeps {Inv : State → Prop} (hstep : ∀ s t, Inv s → step s = .next t → Inv t) :
    ∀ (k : Nat) (s t : State), Inv s → Sys2Proof.core.run k s = .next t → Inv t := by
  intro k
  induction k with
  | zero =>
    intro s t hs h
    simp only [Host.Core.run] at h
    cases h
    exact hs
  | succ k ih =>
    intro s t hs h
    simp only [Host.Core.run] at h
    have hcore : Sys2Proof.core.step s = step s := rfl
    rw [hcore] at h
    cases hs' : step s with
    | next u =>
      rw [hs'] at h
      exact ih u t (hstep s u hs hs') h
    | fault r => rw [hs'] at h; simp at h
    | refused r => rw [hs'] at h; simp at h

end Sys2Proof.Machine
end

