-- ==== Sys2Proof/Tests/Slice0.lean ====
section
/-! SUPPORT. Tests: words written out from the encoding tables, ill-formed terms the checks refuse, steps with the results the spec's
vectors give (95_test_vectors.md), and a witness for the hypotheses of every statement that has some. -/

namespace Sys2Proof.Tests

open Sys2Proof.Machine

/-! ### Helpers -/

/-- The next state, where there is one. -/
def nextOf (o : Host.Outcome State Fault Refusal) : Option State :=
  match o with
  | .next s => some s
  | .fault _ => none
  | .refused _ => none

/-- The fault, where the machine stops with one. -/
def faultOf (o : Host.Outcome State Fault Refusal) : Option Fault :=
  match o with
  | .next _ => none
  | .fault r => some r
  | .refused _ => none

/-- The refusal, where the machine stops with one. -/
def refusalOf (o : Host.Outcome State Fault Refusal) : Option Refusal :=
  match o with
  | .next _ => none
  | .fault _ => none
  | .refused r => some r

/-- What an instruction does to some observation of the state. -/
def after {α : Type} (i : Instr) (s : State) (f : State → α) : Option α := (nextOf (exec i s)).map f

/-- The state after reset with LASTERR present. -/
def errReset : State := State.resetWith { Config.defaultParams with hasLastError := true }

/-- The start of the vectors V15 to V28: TransmitByte, BUF = 0x100, LEN = 2, CUR = 0, mem[0x100] = 0x11, LASTERR present. -/
def txState : State := { errReset with state := 4, buf := 0x100, len := 2, mem := [(0x100, 0x11)], pend := true }

/-- The start of V36: ReceiveByte, BUF = 0x200, LEN = 1, CUR = 0. -/
def rxState : State := { State.reset with state := 5, buf := 0x200, len := 1, pend := true }

/-- Parameters with no memory at 0x200 (V37). -/
def holeParams : Params := { Config.defaultParams with unbacked := [⟨0x200, 1⟩] }

/-- Parameters with an 8-bit address space (V34, V35). -/
def smallParams : Params := { Config.defaultParams with bufAddrBits := 8 }

/-- Parameters with ATOMIC_LAUNCH false (V56). -/
def splitParams : Params := { Config.defaultParams with atomicLaunch := false }

/-! ### Well-formedness refuses -/

theorem test_wf_lenBits_zero : ({ Config.defaultParams with lenBits := 0 } : Params).wf = false := by decide
theorem test_wf_bufAddrBits_zero : ({ Config.defaultParams with bufAddrBits := 0 } : Params).wf = false := by decide
theorem test_wf_defaults : Config.defaultParams.wf = true := by decide
theorem test_wf_ref_too_wide : (Instr.setBuffer 0x10000 1).wf Config.defaultParams = false := by decide
theorem test_wf_n_too_wide : (Instr.setBuffer 0x100 256).wf Config.defaultParams = false := by decide
theorem test_wf_widest : (Instr.setBuffer 0xFFFF 255).wf Config.defaultParams = true := by decide

/-! ### Decoding: each word from its encoding table, bit by bit -/

/-- R73. -/
theorem test_decode_setBuffer : decode (.req 0b0000000000000001 0x300 4) = .instr (.setBuffer 0x300 4) := by decide
/-- R74, V55: D at bit 11, A at bits 10 to 4. -/
theorem test_decode_launch_read : decode (.req 0b0000111111110010 0 0) = .instr (.launch 0x7F true) := by decide
/-- R74, V29: 0x03C2. -/
theorem test_decode_launch_write : decode (.req 0b0000001111000010 0 0) = .instr (.launch 0x3C false) := by decide
/-- R76, V54: 0xFF73. -/
theorem test_decode_irq_all : decode (.req 0b1111111101110011 0 0) = .instr (.irq true true true 0xFF) := by decide
/-- R76: bit 5 alone is the arbitration-lost flag. -/
theorem test_decode_irq_arb : decode (.req 0b1001110000100011 0 0) = .instr (.irq false true false 0x9C) := by decide
/-- R75. -/
theorem test_decode_extReset : decode (.req 0b0000000000000100 0 0) = .instr .extReset := by decide
theorem test_decode_hIdle : decode (.st 0b0000) = .instr .hIdle := by decide
theorem test_decode_hStart : decode (.st 0b0001) = .instr .hStart := by decide
theorem test_decode_hStop : decode (.st 0b0010) = .instr .hStop := by decide
theorem test_decode_hReset : decode (.st 0b0011) = .instr .hReset := by decide
theorem test_decode_hTx : decode (.st 0b0100) = .instr .hTx := by decide
theorem test_decode_hRx : decode (.st 0b0101) = .instr .hRx := by decide
theorem test_decode_hNack : decode (.st 0b0110) = .instr .hNack := by decide
theorem test_decode_hArb : decode (.st 0b0111) = .instr .hArb := by decide
theorem test_decode_hBuserr : decode (.st 0b1000) = .instr .hBuserr := by decide
theorem test_decode_illegal_state : decode (.st 0b1001) = .illegalState := by decide
/-- V47, V48, V49. -/
theorem test_decode_reservedOp : [0x0000, 0x0005, 0xFFFF].map (fun w => decode (.req w 0 0)) =
    [.refused .reservedOp, .refused .reservedOp, .refused .reservedOp] := by decide
/-- V50, V51, V52, V53. -/
theorem test_decode_reservedBits : [0x0011, 0x1002, 0x0083, 0x0014].map (fun w => decode (.req w 0 0)) =
    [.refused .reservedBits, .refused .reservedBits, .refused .reservedBits, .refused .reservedBits] := by decide
/-- R86: the encoder's words. -/
theorem test_encode_words :
    [Instr.launch 0x50 false, .launch 0x50 true, .irq true true true 0, .irq false false false 3, .extReset].map encode =
      [.req 0x0502 0 0, .req 0x0D02 0 0, .req 0x0073 0 0, .req 0x0303 0 0, .req 0x0004 0 0] := by decide
/-- The table's numbers: a state code in one byte, a request word in two. -/
theorem test_decodeTableWord : decodeTableWord 8 4 = some .hTx ∧ decodeTableWord 16 4 = some .extReset ∧
    decodeTableWord 16 0x0D02 = some (.launch 0x50 true) ∧ decodeTableWord 8 9 = none := by decide

/-! ### Meanings: the spec's vectors -/

/-- V1. -/
theorem test_setBuffer_idle : after (.setBuffer 0x300 4) { State.reset with cur := 5, len := 7 }
    (fun t => (t.buf, t.len, t.cur)) = some (0x300, 4, 0) := by decide
/-- V2. -/
theorem test_setBuffer_busy : after (.setBuffer 0x300 4) txState (fun t => (t.fault, t.buf, t.len)) =
    some (some (.setBufferWhileBusy 4 0x300 4), 0x100, 2) := by decide
/-- V7. -/
theorem test_launch_read : after (.launch 0x7F true) State.reset (fun t => (t.sad, t.state, t.ct, t.ht)) =
    some (0xFF, 5, [.issueAddr 0xFF], [1]) := by decide
/-- V12. -/
theorem test_launch_clears_lastErr : after (.launch 0x50 false) { errReset with lastErr := 2 } (fun t => t.lastErr) =
    some 0 := by decide
/-- V19: the last match wins. -/
theorem test_irq_nack_arb : after (.irq true true false 0) txState (fun t => (t.ht, t.state, t.lastErr, t.cur)) =
    some ([7], 0, 2, 0) := by decide
/-- V23: RD is ignored by H_TX. -/
theorem test_irq_tx : after (.irq false false false 0xFF) txState (fun t => (t.ct, t.cur, t.state)) =
    some ([.writeData 0x11], 1, 4) := by decide
/-- V40. -/
theorem test_extReset_midwrite : after .extReset { txState with cur := 1 } (fun t => (t.ht, t.ct, t.state, t.cur)) =
    some ([3], [.flush, .forceIdle], 0, 1) := by decide
/-- R103. -/
theorem test_hIdle : after .hIdle State.reset (fun t => (t.ht, t.ct, t.state)) = some ([0], [], 0) := by decide
/-- V30, as H_START alone: SAD = 0x79 is a read of 0x3C. -/
theorem test_hStart : after .hStart { State.reset with sad := 0x79, state := 1 } (fun t => (t.ct, t.state)) =
    some ([.issueAddr 0x79], 5) := by decide
/-- V39. -/
theorem test_hStop : after .hStop { State.reset with state := 2 } (fun t => (t.ct, t.state)) =
    some ([.issueStop], 0) := by decide
/-- R111. -/
theorem test_hReset : after .hReset { State.reset with state := 3 } (fun t => (t.ct, t.state)) =
    some ([.flush, .forceIdle], 0) := by decide
/-- V32. -/
theorem test_hTx_last : after .hTx { txState with len := 3, cur := 2, mem := [(0x102, 0x33)] }
    (fun t => (t.ct, t.cur, t.state)) = some ([.writeData 0x33], 3, 2) := by decide
/-- V34, V35: the top of an 8-bit address space. -/
theorem test_hTx_top : after .hTx { State.resetWith smallParams with state := 4, buf := 0xFF, len := 2, mem := [(0xFF, 0x7E)] }
      (fun t => (t.ct, t.cur)) = some ([.writeData 0x7E], 1) ∧
    after .hTx { State.resetWith smallParams with state := 4, buf := 0xFF, len := 2, cur := 1 }
      (fun t => t.fault) = some (some (.addressOverflow 0xFF 1)) := by decide
/-- V36. -/
theorem test_irq_rx : after (.irq false false false 0x9C) rxState (fun t => (t.mem, t.ct, t.cur, t.state)) =
    some ([(0x200, 0x9C)], [.readData 0x9C], 1, 2) := by decide
/-- V38: a zero byte leaves memory's canonical form with nothing listed. -/
theorem test_irq_rx_zero : after (.irq false false false 0) { rxState with mem := [(0x200, 5)] } (fun t => t.mem) =
    some [] := by decide
/-- V37. -/
theorem test_irq_rx_stuck : faultOf (exec (.irq false false false 0x9C) { rxState with params := holeParams }) =
    some (.stuck 0x200) := by decide
/-- R108 outside an IRQ: with LEN = 0 it faults before any command. -/
theorem test_hRx_overrun : after .hRx { rxState with len := 0 } (fun t => (t.fault, t.ct)) =
    some (some (.bufferOverrun 5 0 0), []) := by decide
/-- R112, R113, R114. -/
theorem test_hNack : after .hNack { txState with state := 6 } (fun t => (t.ht, t.ct, t.state, t.lastErr)) =
    some ([6], [.issueStop], 0, 0) := by decide
theorem test_hArb : after .hArb { txState with state := 7 } (fun t => (t.ht, t.ct, t.state)) =
    some ([7], [.issueStop], 0) := by decide
theorem test_hBuserr : after .hBuserr { txState with state := 8 } (fun t => (t.ht, t.ct, t.state)) =
    some ([8], [.issueStop], 0) := by decide

/-! ### Steps, host access, text -/

/-- V42, as a step. -/
theorem test_step_illegal_state :
    (nextOf (step { State.reset with state := 9, inputs := [.request .interrupt 0x0003 0 0] })).map (fun t => t.fault) =
      some (some (.illegalState 9)) := by decide
/-- R79: a refused request, and no step after it. -/
theorem test_step_refused :
    (nextOf (step { State.reset with inputs := [.request .foreground 0x1002 0 0] })).map (fun t => (t.refused, t.ht)) =
        some (some .reservedBits, []) ∧
      refusalOf (step { State.reset with refused := some .reservedBits }) = some (.requestRefused .reservedBits) := by
  decide
/-- R172. -/
theorem test_step_foreground_irq : refusalOf (step { State.reset with inputs := [.request .foreground 0x0003 0 0] }) =
    some (.noMove (.request .foreground 0x0003 0 0)) := by decide
/-- V44, V45. -/
theorem test_step_hostWrite :
    (nextOf (step { txState with inputs := [.hostWrite 0x101 1] })).map (fun t => t.fault) =
        some (some (.bufferWriteWhileBusy 4 0x101)) ∧
      (nextOf (step { txState with inputs := [.hostWrite 0x102 1] })).map (fun t => t.mem) =
        some [(0x100, 0x11), (0x102, 1)] := by decide
/-- V46. -/
theorem test_peek : peek txState 0x100 = some 0x11 ∧ readReg txState .state = some 4 ∧ readReg State.reset .lastErr = none := by
  decide
/-- The first instruction after reset, as the table numbers it. -/
theorem test_withFetchWord :
    (nextOf (step (State.reset.withFetchWord 16 0x0502))).map (fun t => (t.sad, t.state)) = some (0xA0, 4) ∧
      (nextOf (step (State.reset.withFetchWord 16 0x0043))).map (fun t => t.ht) = some [8] ∧
      (nextOf (step (State.reset.withFetchWord 8 2))).map (fun t => (t.ht, t.ct)) = some ([2], [.issueStop]) := by decide
/-- R84, R85: the words of R86. -/
theorem test_assemble_text : (match assembleText "write_txn 0x50, 0x100, 2 ; c".toList with
      | .ok es => some es
      | .error _ => none) =
    some [.request .foreground 0x0001 0x100 2, .request .foreground 0x0502 0 0] := by decide
theorem test_assemble_irq : (match assembleText "irq berr rd=0x5A".toList with
      | .ok es => some es
      | .error _ => none) = some [.request .interrupt 0x5A43 0 0] := by decide
/-- V11. -/
theorem test_assemble_addressRange : (match assembleText "launch 0x80, w".toList with
      | .ok _ => none
      | .error e => some e) = some (.refused .addressRange) := by decide

/-- The table of R166. -/
theorem test_fault_codes :
    [.bufferOverrun 4 2 2, .addressOverflow 0xFFFF 1, .setBufferWhileBusy 4 0 0, .bufferWriteWhileBusy 4 0x100,
      .illegalState 9].map faultCode = [1, 2, 3, 4, 5] := by decide

/-! ### Witnesses: states and operands that meet the hypotheses of each statement -/

theorem witness_AcceptedWordIsTheEncodersWord : decodeRequest 0x0D02 3 4 = .ok (.launch 0x50 true) ∧
    decodeRequest 0x0001 3 4 = .ok (.setBuffer 3 4) := by decide

theorem witness_AssembledLaunchDecodesToIt : 0x7F < 0x80 ∧ 0x7F ≤ 0x7F := by decide

theorem witness_StepRunsTheDecodedRequest :
    let s := { State.reset with inputs := [.request .interrupt 0x0003 0 0] }
    s.Running ∧ s.inputs = .request .interrupt 0x0003 0 0 :: [] ∧
      decodeRequest 0x0003 0 0 = .ok (.irq false false false 0) ∧ issuer (.irq false false false 0) = .interrupt := by decide

theorem witness_StepRunsTheHandlerOfStateAtLaunchB :
    let s := { State.reset with state := 1, launchesOwed := 1, inputs := [.launchB] }
    s.Running ∧ s.inputs = .launchB :: [] ∧ 0 < s.launchesOwed ∧ decodeState s.state = some .hStart := by decide

theorem witness_StepTakesTheEnvironmentsDraw : State.reset.Running ∧ State.reset.inputs = [] := by decide

theorem witness_RefusedRequestSetsRefusedOnly :
    let s := { State.reset with inputs := [.request .foreground 0x0014 0 0] }
    s.Running ∧ s.inputs = .request .foreground 0x0014 0 0 :: [] ∧ decodeRequest 0x0014 0 0 = .error .reservedBits := by
  decide

theorem witness_NothingStepsOnceAMarkIsSet :
    ({ State.reset with fault := some (.illegalState 9) } : State).fault = some (.illegalState 9) ∧
      ({ State.reset with refused := some .reservedOp } : State).fault = none ∧
      ({ State.reset with refused := some .reservedOp } : State).refused = some .reservedOp := by decide

theorem witness_FaultingOperationChangesFaultOnly :
    ∃ t, exec .hTx State.reset = .next t ∧ t.fault ≠ none := ⟨_, rfl, by decide⟩

theorem witness_NoContextMakesTheOthersMove :
    let s := { State.reset with inputs := [.request .interrupt 0x0004 0 0] }
    s.Running ∧ s.inputs = .request .interrupt 0x0004 0 0 :: [] ∧ decodeRequest 0x0004 0 0 = .ok .extReset ∧
      issuer .extReset ≠ .interrupt := by decide

theorem witness_SetBufferStoresReferenceAndLength :
    State.reset.Running ∧ (Instr.setBuffer 0xFFFF 255).wf State.reset.params = true ∧
      State.reset.state = stateCode .idle ∧
      txState.Running ∧ (Instr.setBuffer 0 0).wf txState.params = true ∧ txState.state ≠ stateCode .idle := by decide

theorem witness_SetBufferFrame : ∃ t, exec (.setBuffer 0x10 0) State.reset = .next t := ⟨_, rfl⟩

theorem witness_LaunchFromIdleIssuesTheAddress :
    State.reset.Running ∧ State.reset.params.atomicLaunch = true ∧ State.reset.state = stateCode .idle := by decide

theorem witness_LaunchWhileActiveChangesNothing : rxState.Running ∧ rxState.state ≠ stateCode .idle := by decide

theorem witness_SplitLaunchStopsAtStart :
    (State.resetWith splitParams).Running ∧ (State.resetWith splitParams).params.atomicLaunch = false ∧
      (State.resetWith splitParams).state = stateCode .idle := by decide

/-- V56. -/
theorem witness_InterleavedLaunchSendsAByteEarly :
    let s := { State.resetWith splitParams with
      buf := 0x100, len := 2, mem := [(0x100, 0xAA)],
      inputs := [.request .foreground 0x0502 0 0, .request .interrupt (irqWord false false false 0) 0 0, .launchB] }
    s.Running ∧ s.params.atomicLaunch = false ∧ s.state = stateCode .idle ∧ s.cur < s.len ∧
      memAdmit s.params (s.buf + s.cur) = true ∧ encode (.launch 0x50 false) = .req 0x0502 0 0 ∧
      s.inputs = .request .foreground 0x0502 0 0 :: .request .interrupt (irqWord false false false 0) 0 0 ::
        .launchB :: [] := by decide

theorem witness_LaunchFrame : ∃ t, exec (.launch 0 false) State.reset = .next t := ⟨_, rfl⟩

theorem witness_IrqWithAFlagEndsIdle : txState.Running ∧ (false || false || true) = true := by decide

theorem witness_IrqWithoutAFlagInIdleOrStop :
    State.reset.Running ∧ State.reset.state = stateCode .idle ∧
      ({ State.reset with state := 2 } : State).Running ∧ ({ State.reset with state := 2 } : State).state = stateCode .stop := by
  decide

theorem witness_IrqWithoutAFlagRunsTheHandlerOfState :
    let s := { State.reset with state := 1, launchesOwed := 1 }
    s.Running ∧ s.state = stateCode .start ∧ FsmState.start ≠ .transmitByte ∧ FsmState.start ≠ .receiveByte := by decide

/-- At the last address of caller memory. -/
theorem witness_IrqTransmitsTheByteAtTheCursor :
    let s := { State.reset with state := 4, buf := 0xFFFF, len := 1 }
    s.Running ∧ s.state = stateCode .transmitByte ∧ s.cur < s.len ∧ memAdmit s.params (s.buf + s.cur) = true := by decide

theorem witness_IrqStoresTheReceivedByte :
    rxState.Running ∧ rxState.mem.wf ∧ rxState.state = stateCode .receiveByte ∧ rxState.cur < rxState.len ∧
      memAdmit rxState.params (rxState.buf + rxState.cur) = true := by decide

theorem witness_IllegalStateFaults :
    let s := { State.reset with state := 9, launchesOwed := 1, inputs := [.launchB] }
    s.Running ∧ 9 ≤ s.state.toNat ∧ s.inputs = .launchB :: [] ∧ 0 < s.launchesOwed := by decide

/-- One state for each clause: CUR = LEN; the first address past the top; an address without memory. -/
theorem witness_ByteHandlerStopsInOrder :
    (let s := { txState with cur := 2 }
     s.Running ∧ s.state = stateCode .transmitByte ∧ s.len ≤ s.cur) ∧
    (let s := { txState with buf := 0xFFFF, cur := 1 }
     s.Running ∧ s.cur < s.len ∧ 2 ^ s.params.bufAddrBits ≤ s.buf + s.cur) ∧
    (let s := { rxState with params := holeParams }
     s.Running ∧ s.state = stateCode .receiveByte ∧ s.cur < s.len ∧
      s.buf + s.cur < 2 ^ s.params.bufAddrBits ∧ memAdmit s.params (s.buf + s.cur) = false) := by decide

theorem witness_IrqFrame : rxState.mem.wf ∧ ∃ t, exec (.irq false false false 7) rxState = .next t :=
  ⟨by decide, _, rfl⟩

theorem witness_Running : State.reset.Running ∧ txState.Running ∧ rxState.Running := by decide

theorem witness_ExtResetFlushesAndGoesIdle : txState.Running := by decide
theorem witness_IdleHandlerDoesNothing : State.reset.Running := by decide
theorem witness_StartHandlerIssuesTheAddress : ({ State.reset with state := 1 } : State).Running := by decide
theorem witness_StopHandlerIssuesTheStop :
    ({ State.reset with state := 2 } : State).Running ∧ ({ State.reset with state := 2 } : State).state = stateCode .stop := by
  decide
theorem witness_ResetHandlerFlushes : ({ State.reset with state := 3 } : State).Running := by decide
theorem witness_ErrorHandlersIssueTheStop :
    ({ State.reset with state := 7 } : State).Running ∧ (false || true || false) = true ∧
      ∀ p ∈ [(Instr.hNack, FsmState.nackReceived), (.hArb, .arbitrationLost), (.hBuserr, .busError)],
        (p.1 = .hNack ∧ p.2 = .nackReceived) ∨ (p.1 = .hArb ∧ p.2 = .arbitrationLost) ∨
          (p.1 = .hBuserr ∧ p.2 = .busError) := by decide

theorem witness_TransmitHandlerSendsOneByte :
    txState.Running ∧ txState.cur < txState.len ∧ memAdmit txState.params (txState.buf + txState.cur) = true := by decide

theorem witness_ReceiveHandlerStoresOneByte :
    rxState.Running ∧ rxState.mem.wf ∧ rxState.cur < rxState.len ∧
      memAdmit rxState.params (rxState.buf + rxState.cur) = true := by decide

theorem witness_NonStoringHandlersFrame : ∃ t, exec .hTx txState = .next t := ⟨_, rfl⟩

theorem witness_ReceiveHandlerFrame : rxState.mem.wf ∧ ∃ t, exec .hRx rxState = .next t := ⟨by decide, _, rfl⟩

/-- The first byte past the region, and the last byte inside it. -/
theorem witness_HostWriteOutsideTheActiveBuffer :
    (let s := { txState with inputs := [.hostWrite 0x101 1] }
     s.Running ∧ s.inputs = .hostWrite 0x101 1 :: [] ∧ s.state ≠ stateCode .idle ∧ s.buf ≤ 0x101 ∧ 0x101 < s.buf + s.len) ∧
    (let s := { txState with inputs := [.hostWrite 0x102 1] }
     s.Running ∧ s.inputs = .hostWrite 0x102 1 :: [] ∧ s.mem.wf ∧
      ¬ (s.state ≠ stateCode .idle ∧ s.buf ≤ 0x102 ∧ 0x102 < s.buf + s.len) ∧ memAdmit s.params 0x102 = true) := by decide

theorem witness_HostReadsChangeNothing :
    (let s := { txState with inputs := [.hostRead 0x100] }
     s.Running ∧ s.inputs = .hostRead 0x100 :: [] ∧ memAdmit s.params 0x100 = true) ∧
    (let s := { txState with inputs := [.hostReadReg .cur] }
     s.Running ∧ s.inputs = .hostReadReg .cur :: []) := by decide

/-- One state for each of the five causes; the host write is to the first byte of the region. -/
theorem witness_FaultReasonsHaveTheirCodes :
    (let s := { txState with cur := 2 }
     s.Running ∧ s.state = stateCode .transmitByte ∧ s.len ≤ s.cur) ∧
    (let s := { rxState with buf := 0xFFFF, len := 2, cur := 1 }
     s.Running ∧ s.state = stateCode .receiveByte ∧ s.cur < s.len ∧ 2 ^ s.params.bufAddrBits ≤ s.buf + s.cur) ∧
    (txState.Running ∧ (Instr.setBuffer 0xFFFF 255).wf txState.params = true ∧ txState.state ≠ stateCode .idle) ∧
    (let s := { txState with inputs := [.hostWrite 0x100 1] }
     s.Running ∧ s.inputs = .hostWrite 0x100 1 :: [] ∧ s.state ≠ stateCode .idle ∧ s.buf ≤ 0x100 ∧ 0x100 < s.buf + s.len) ∧
    (({ State.reset with state := 9 } : State).Running ∧ 9 ≤ ({ State.reset with state := 9 } : State).state.toNat) := by
  decide

theorem witness_ResetMeetsTheInvariants : Config.defaultParams.wf = true ∧ smallParams.wf = true := by decide

/-- A step from a state that meets every invariant, active and in the middle of a write. -/
theorem witness_invariants_step :
    let s := { txState with inputs := [.request .interrupt 0x0003 0 0] }
    s.Wf ∧ s.Settled ∧ s.AtomicOwesNone ∧ s.IdleOwesNone ∧ s.ActiveOwesOne ∧ s.params.atomicLaunch = true ∧
      s.state ≠ stateCode .idle ∧ (nextOf (step s)).isSome = true := by decide

theorem witness_StepKeepsTheStateWellFormed :
    ∃ s t, s.Wf ∧ step s = .next t :=
  ⟨{ rxState with inputs := [.request .interrupt 0x9C03 0 0] }, _, by decide, rfl⟩

theorem witness_StepKeepsStateSettled :
    ∃ s t, s.Settled ∧ s.AtomicOwesNone ∧ step s = .next t :=
  ⟨{ State.resetWith splitParams with state := 1, launchesOwed := 1, inputs := [.launchB] }, _, by decide, by decide, rfl⟩

theorem witness_IdleBlockIsOwedNoInterrupt :
    ∃ s t, s.IdleOwesNone ∧ step s = .next t ∧ PeriphOK s ∧ s.state = stateCode .idle :=
  ⟨{ State.reset with inputs := [.request .foreground 0x0502 0 0] }, _, by decide, rfl, fun h => absurd h (by decide),
    rfl⟩

theorem witness_ActiveTransactionIsOwedAnInterrupt :
    ∃ s t, s.params.atomicLaunch = true ∧ s.AtomicOwesNone ∧ s.Settled ∧ s.ActiveOwesOne ∧ step s = .next t :=
  ⟨{ txState with inputs := [.request .interrupt 0x0003 0 0] }, _, rfl, by decide, by decide, by decide, rfl⟩

theorem witness_ActiveTransactionKeepsItsBuffer :
    ∃ s t, step s = .next t ∧ s.state ≠ stateCode .idle :=
  ⟨{ txState with inputs := [.request .interrupt 0x0003 0 0] }, _, rfl, by decide⟩

theorem witness_TracesOnlyGrow : ∃ s t, step s = .next t :=
  ⟨{ State.reset with inputs := [.request .foreground 0x0004 0 0] }, _, rfl⟩

/-- A step that ends a transaction, one that leaves it as it is, and a LAUNCH meanwhile. -/
theorem witness_TransactionEndsOnlyByStopOrReset :
    (∃ s t, s.state ≠ stateCode .idle ∧ step s = .next t ∧ t.state = stateCode .idle) ∧
    (∃ s t w ref n a d, s.state ≠ stateCode .idle ∧ step s = .next t ∧ deliversIrq (nextEvent s) = false ∧
      nextEvent s ≠ .launchB ∧ nextEvent s = .request .foreground w ref n ∧
      decodeRequest w ref n = .ok (.launch a d)) :=
  ⟨⟨{ txState with inputs := [.request .interrupt 0x0013 0 0] }, _, by decide, rfl, by decide⟩,
    ⟨{ txState with inputs := [.request .foreground 0x0A02 0 0] }, _, 0x0A02, 0, 0, 0x20, true, by decide, rfl, by decide,
      by decide, rfl, by decide⟩⟩

/-- The read of one byte into the last address of caller memory. -/
theorem witness_CleanTransactionEndsWithCursorAtLength :
    let s := State.reset
    s.Running ∧ s.mem.wf ∧ s.params.atomicLaunch = true ∧ s.state = stateCode .idle ∧
      (Instr.setBuffer 0xFFFF 1).wf s.params = true ∧ 1 ≤ 1 ∧ [(0x5A : Byte)].length = 1 ∧
      (∀ j, j < 1 → memAdmit s.params (0xFFFF + j) = true) := by decide

theorem witness_StaleCursorFaultsAtTheFirstByte :
    let s := { State.reset with len := 2, cur := 2 }
    s.Running ∧ s.params.atomicLaunch = true ∧ s.state = stateCode .idle ∧ s.cur = s.len := by decide

/-- A schedule: LAUNCH, the IRQ with a NACK, then nobody moves. -/
def probeSchedule (k : Nat) : Event :=
  match k with
  | 0 => .request .foreground 0x0502 0 0
  | 1 => .request .interrupt 0x0013 0 0
  | _ => .quiet

/-- The state once the probe's LAUNCH is made. -/
def probeLaunched : State :=
  { State.reset with sad := 0xA0, state := 4, ht := [1], ct := [.issueAddr 0xA0], pend := true }

/-- The state once the probe is over. -/
def probeEnded : State :=
  { State.reset with sad := 0xA0, ht := [1, 6], ct := [.issueAddr 0xA0, .issueStop] }

/-- The run of the probe. -/
def probeRun (k : Nat) : State :=
  match k with
  | 0 => State.reset
  | 1 => probeLaunched
  | _ => probeEnded

theorem witness_FairRunsReturnToIdle :
    IsRun probeSchedule probeRun ∧ FairDelivery probeSchedule probeRun ∧ (probeRun 0).params.atomicLaunch = true ∧
      (probeRun 0).Settled ∧ (probeRun 0).AtomicOwesNone ∧ (probeRun 0).ActiveOwesOne := by
  refine ⟨fun k => ?_, fun k h => ?_, rfl, by decide, by decide, by decide⟩
  · match k with
    | 0 => rfl
    | 1 => rfl
    | k + 2 => rfl
  · have := h (k + 2) (by omega)
    simp [probeRun, probeEnded, State.reset, State.resetWith] at this

end Sys2Proof.Tests
end

