-- ==== Sys2Proof/Proofs/EntryPoints.lean ====
section
/-! The entry points: LAUNCH while a transaction is active (R142), and the override of an IRQ (R132). -/

namespace Sys2Proof.Machine

/-! ### LAUNCH -/

/-- In a state whose marks are clear, the meaning of LAUNCH is how its body ends. -/
theorem exec_launch_of_running {s : State} (a : BitVec 7) (d : Bool) (h : s.Running) :
    exec (.launch a d) s = finish s (launchBody a d s) :=
  operation_of_clear h.left h.right

theorem launchBody_of_active {s : State} (a : BitVec 7) (d : Bool) (h : s.state ≠ stateCode .idle) :
    launchBody a d s = .done s :=
  if_pos ((isActive_iff s).mpr h)

/-- Settles O19: the test for an active transaction comes first and gives the state back. -/
theorem launchWhileActiveChangesNothing : Obligations.LaunchWhileActiveChangesNothing := by
  intro s a d hrun hactive
  rw [exec_launch_of_running a d hrun, launchBody_of_active a d hactive, finish_done]

/-! ### The override -/

@[simp] theorem forceError_false (q : FsmState) (s : State) : forceError false q s = s := rfl

/-- A set flag writes STATE, and LASTERR where it is present, and nothing else. -/
theorem forceError_true (q : FsmState) (s : State) :
    forceError true q s =
      { s with
        state := stateCode q
        lastErr := if s.params.hasLastError then lastErrCode q else s.lastErr } := rfl

/-- A set flag erases all that an earlier test wrote: the last match wins. -/
theorem forceError_true_forceError (flag : Bool) (q r : FsmState) (s : State) :
    forceError true q (forceError flag r s) = forceError true q s := by
  cases flag with
  | false => rfl
  | true => cases hp : s.params.hasLastError <;> simp [forceError_true, hp]

/-- The override is the test of the last flag that is set, alone (R132, C1). -/
theorem override_eq_last_forceError (k l b : Bool) (s : State) :
    override k l b s =
      if b then forceError true .busError s
      else if l then forceError true .arbitrationLost s
      else forceError k .nackReceived s := by
  unfold override
  cases b with
  | true => simp [forceError_true_forceError]
  | false =>
    cases l with
    | true => simp [forceError_true_forceError]
    | false => simp

/-- Settles O23: only the last set flag's test counts, and it writes STATE and, where present, LASTERR. -/
theorem overrideLastMatchWins : Obligations.OverrideLastMatchWins := by
  intro s k l b
  rw [override_eq_last_forceError]
  cases b with
  | true => rfl
  | false =>
    cases l with
    | true => rfl
    | false =>
      cases k with
      | true => rfl
      | false => simp

end Sys2Proof.Machine
end

/-! ## The request decoder and the encoder

A word is read as a number: the decoder, one equation for each op code, and the encoder's words, so that their round trips are
linear arithmetic. -/

namespace Sys2Proof

/-! ### Fields of a word as numbers -/

theorem toNat_append_eq_add {m n : Nat} (x : BitVec m) (y : BitVec n) :
    (x ++ y).toNat = x.toNat * 2 ^ n + y.toNat := by
  rw [BitVec.toNat_append, ← Nat.shiftLeft_add_eq_or_of_lt y.isLt, Nat.shiftLeft_eq]

theorem bitField_toNat (w : ReqWord) (lo n : Nat) : (bitField w lo n).toNat = w.toNat / 2 ^ lo % 2 ^ n := by
  simp [bitField, Nat.shiftRight_eq_div_pow]

theorem getLsbD_toNat (w : ReqWord) (i : Nat) : (w.getLsbD i).toNat = w.toNat / 2 ^ i % 2 :=
  Nat.toNat_testBit w.toNat i

theorem getLsbD_of_toNat {w : ReqWord} {i : Nat} {b : Bool} (h : w.toNat / 2 ^ i % 2 = b.toNat) : w.getLsbD i = b := by
  rw [← getLsbD_toNat] at h
  revert h
  cases w.getLsbD i <;> cases b <;> decide

/-- A field that reaches the top of the word is zero exactly when the word's number stays below it. -/
theorem bitField_top_eq_zero (w : ReqWord) {lo n : Nat} (h : lo + n = 16) :
    bitField w lo n = 0 ↔ w.toNat < 2 ^ lo := by
  have hlt : w.toNat / 2 ^ lo < 2 ^ n := by
    rw [Nat.div_lt_iff_lt_mul (Nat.two_pow_pos lo), ← Nat.pow_add, Nat.add_comm n lo, h]
    exact w.isLt
  rw [← BitVec.toNat_inj, bitField_toNat, Nat.mod_eq_of_lt hlt]
  simp

/-- A field that a mask keeps is read from the pattern the masked word equals. -/
theorem bitField_of_and_eq {w m p : ReqWord} {lo n : Nat} (h : w &&& m = p)
    (hm : bitField m lo n = BitVec.allOnes n) : bitField w lo n = bitField p lo n := by
  calc bitField w lo n = bitField w lo n &&& bitField m lo n := by rw [hm, BitVec.and_allOnes]
    _ = bitField (w &&& m) lo n := BitVec.extractLsb'_and.symm
    _ = bitField p lo n := by rw [h]

/-! ### The encoder's words -/

theorem launchWord_toNat (a : BitVec 7) (d : Bool) :
    (launchWord a d).toNat = d.toNat * 2048 + a.toNat * 16 + 2 := by
  calc (launchWord a d).toNat = (0#4 ++ BitVec.ofBool d ++ a ++ 2#4 : BitVec (4 + 1 + 7 + 4)).toNat := rfl
    _ = d.toNat * 2048 + a.toNat * 16 + 2 := by
      simp only [toNat_append_eq_add, BitVec.toNat_ofNat, BitVec.toNat_ofBool]
      omega

theorem irqWord_toNat (k l b : Bool) (rd : Byte) :
    (irqWord k l b rd).toNat = rd.toNat * 256 + b.toNat * 64 + l.toNat * 32 + k.toNat * 16 + 3 := by
  calc (irqWord k l b rd).toNat =
      (rd ++ 0#1 ++ BitVec.ofBool b ++ BitVec.ofBool l ++ BitVec.ofBool k ++ 3#4 :
        BitVec (8 + 1 + 1 + 1 + 1 + 4)).toNat := rfl
    _ = rd.toNat * 256 + b.toNat * 64 + l.toNat * 32 + k.toNat * 16 + 3 := by
      simp only [toNat_append_eq_add, BitVec.toNat_ofNat, BitVec.toNat_ofBool]
      omega

/-- A word below 4096 with the op code 2 is the LAUNCH word of its own fields (R74). -/
theorem eq_launchWord {w : ReqWord} (hop : w.toNat % 16 = 2) (hz : w.toNat < 4096) :
    w = launchWord (bitField w 4 7) (w.getLsbD 11) := by
  apply BitVec.eq_of_toNat_eq
  rw [launchWord_toNat, bitField_toNat, getLsbD_toNat]
  omega

/-- A word with the op code 3 and bit 7 clear is the IRQ word of its own fields (R76). -/
theorem eq_irqWord {w : ReqWord} (hop : w.toNat % 16 = 3) (hz : w.toNat / 128 % 2 = 0) :
    w = irqWord (w.getLsbD 4) (w.getLsbD 5) (w.getLsbD 6) (bitField w 8 8) := by
  have hw := w.isLt
  apply BitVec.eq_of_toNat_eq
  simp only [irqWord_toNat, bitField_toNat, getLsbD_toNat]
  omega

/-! ### The decoder, op code by op code (R78) -/

/-- Every word has the op code of a request or a reserved one. -/
theorem op_cases (w : ReqWord) : w.toNat % 16 = 1 ∨ w.toNat % 16 = 2 ∨ w.toNat % 16 = 3 ∨ w.toNat % 16 = 4 ∨
    (w.toNat % 16 = 0 ∨ 5 ≤ w.toNat % 16) := by
  omega

theorem op_toNat (w : ReqWord) : (bitField w 0 4).toNat = w.toNat % 16 := by
  simp [bitField_toNat]

section
variable {w : ReqWord} (ref n : Nat)

theorem decodeRequest_setBuffer (h : w.toNat % 16 = 1) :
    decodeRequest w ref n = if w.toNat < 16 then .ok (.setBuffer ref n) else .error .reservedBits := by
  simp only [decodeRequest, op_toNat, h, ne_eq, bitField_top_eq_zero w (lo := 4) (n := 12) rfl, ite_not]
  rfl

theorem decodeRequest_launch (h : w.toNat % 16 = 2) :
    decodeRequest w ref n =
      if w.toNat < 4096 then .ok (.launch (bitField w 4 7) (w.getLsbD 11)) else .error .reservedBits := by
  simp only [decodeRequest, op_toNat, h, ne_eq, bitField_top_eq_zero w (lo := 12) (n := 4) rfl, ite_not]
  rfl

theorem decodeRequest_irq (h : w.toNat % 16 = 3) :
    decodeRequest w ref n =
      if w.toNat / 128 % 2 = 0 then .ok (.irq (w.getLsbD 4) (w.getLsbD 5) (w.getLsbD 6) (bitField w 8 8))
      else .error .reservedBits := by
  have hbit := getLsbD_toNat w 7
  simp only [decodeRequest, op_toNat, h]
  cases hb : w.getLsbD 7 <;> simp_all

theorem decodeRequest_extReset (h : w.toNat % 16 = 4) :
    decodeRequest w ref n = if w.toNat < 16 then .ok .extReset else .error .reservedBits := by
  simp only [decodeRequest, op_toNat, h, ne_eq, bitField_top_eq_zero w (lo := 4) (n := 12) rfl, ite_not]
  rfl

theorem decodeRequest_reserved (h : w.toNat % 16 = 0 ∨ 5 ≤ w.toNat % 16) :
    decodeRequest w ref n = .error .reservedOp := by
  unfold decodeRequest
  rw [op_toNat]
  split <;> simp_all

end

/-! ### Decoding an encoder's word -/

theorem decodeRequest_launchWord (a : BitVec 7) (d : Bool) (ref n : Nat) :
    decodeRequest (launchWord a d) ref n = .ok (.launch a d) := by
  have hw := launchWord_toNat a d
  have ha := a.isLt
  have hd := d.toNat_lt
  have haddr : bitField (launchWord a d) 4 7 = a := by
    apply BitVec.eq_of_toNat_eq
    rw [bitField_toNat]
    omega
  have hdir : (launchWord a d).getLsbD 11 = d := getLsbD_of_toNat (by omega)
  rw [decodeRequest_launch ref n (by omega), if_pos (by omega), haddr, hdir]

theorem decodeRequest_irqWord (k l b : Bool) (rd : Byte) (ref n : Nat) :
    decodeRequest (irqWord k l b rd) ref n = .ok (.irq k l b rd) := by
  have hw := irqWord_toNat k l b rd
  have hk := k.toNat_lt
  have hl := l.toNat_lt
  have hb := b.toNat_lt
  have hrd : bitField (irqWord k l b rd) 8 8 = rd := by
    have := rd.isLt
    apply BitVec.eq_of_toNat_eq
    rw [bitField_toNat]
    omega
  rw [decodeRequest_irq ref n (by omega), if_pos (by omega), getLsbD_of_toNat (b := k) (by omega),
    getLsbD_of_toNat (b := l) (by omega), getLsbD_of_toNat (b := b) (by omega), hrd]

/-- Settles O1: the fields of an encoder's word are the operands it was made of; each state code selects its handler. -/
theorem decodeOfEncodeIsTheInstruction : Obligations.DecodeOfEncodeIsTheInstruction := by
  intro i
  cases i with
  | launch a d => simp [encode, decode, decodeRequest_launchWord]
  | irq k l b rd => simp [encode, decode, decodeRequest_irqWord]
  | setBuffer ref n => rfl
  | extReset => rfl
  | hIdle => rfl
  | hStart => rfl
  | hStop => rfl
  | hReset => rfl
  | hTx => rfl
  | hRx => rfl
  | hNack => rfl
  | hArb => rfl
  | hBuserr => rfl

/-- A word the decoder accepts, with what it decodes to: one case for each request. -/
theorem decodeRequest_ok_cases {w : ReqWord} {ref n : Nat} {i : Instr} (h : decodeRequest w ref n = .ok i) :
    (w = 1 ∧ i = .setBuffer ref n) ∨
    (∃ a d, w = launchWord a d ∧ i = .launch a d) ∨
    (∃ k l b rd, w = irqWord k l b rd ∧ i = .irq k l b rd) ∨
    (w = 4 ∧ i = .extReset) := by
  rcases op_cases w with hop | hop | hop | hop | hop
  · rw [decodeRequest_setBuffer ref n hop] at h
    split at h
    · exact .inl ⟨BitVec.eq_of_toNat_eq (by simp; omega), (Except.ok.inj h).symm⟩
    · cases h
  · rw [decodeRequest_launch ref n hop] at h
    split at h
    · exact .inr (.inl ⟨_, _, eq_launchWord hop ‹_›, (Except.ok.inj h).symm⟩)
    · cases h
  · rw [decodeRequest_irq ref n hop] at h
    split at h
    · exact .inr (.inr (.inl ⟨_, _, _, _, eq_irqWord hop ‹_›, (Except.ok.inj h).symm⟩))
    · cases h
  · rw [decodeRequest_extReset ref n hop] at h
    split at h
    · exact .inr (.inr (.inr ⟨BitVec.eq_of_toNat_eq (by simp; omega), (Except.ok.inj h).symm⟩))
    · cases h
  · rw [decodeRequest_reserved ref n hop] at h
    cases h

/-- Settles O2: an accepted word is put together again from its own fields. -/
theorem acceptedWordIsTheEncodersWord : Obligations.AcceptedWordIsTheEncodersWord := by
  intro w ref n i h
  rcases decodeRequest_ok_cases h with ⟨rfl, rfl⟩ | ⟨a, d, rfl, rfl⟩ | ⟨k, l, b, rd, rfl, rfl⟩ | ⟨rfl, rfl⟩
  · exact .inl ⟨rfl, rfl⟩
  · exact .inr ⟨nofun, rfl⟩
  · exact .inr ⟨nofun, rfl⟩
  · exact .inr ⟨nofun, rfl⟩

/-! ### Match and mask -/

/-- The full mask keeps the whole word. -/
theorem and_fullMask (w : ReqWord) : w &&& 0xFFFF#16 = w :=
  BitVec.and_allOnes

/-- An accepted word fits its request's match/mask pair. -/
theorem fits_of_decodeRequest_ok {w : ReqWord} {ref n : Nat} {i : Instr} (h : decodeRequest w ref n = .ok i) :
    w &&& 0xFFFF#16 = 0x0001#16 ∨ w &&& 0xF00F#16 = 0x0002#16 ∨ w &&& 0x008F#16 = 0x0003#16 ∨
      w &&& 0xFFFF#16 = 0x0004#16 := by
  rcases decodeRequest_ok_cases h with ⟨rfl, -⟩ | ⟨a, d, rfl, -⟩ | ⟨k, l, b, rd, rfl, -⟩ | ⟨rfl, -⟩
  · exact .inl rfl
  · exact .inr (.inl (BitVec.eq_of_toNat_eq (Laws.TableRow.launch_fits a d)))
  · exact .inr (.inr (.inl (BitVec.eq_of_toNat_eq (Laws.TableRow.irq_fits rd k l b))))
  · exact .inr (.inr (.inr rfl))

/-- A word that fits LAUNCH's pair has its op code and zeros above bit 11. -/
theorem decodeRequest_of_launch_fits {w : ReqWord} (ref n : Nat) (h : w &&& 0xF00F#16 = 0x0002#16) :
    ∃ i, decodeRequest w ref n = .ok i := by
  have hop : w.toNat % 16 = 2 := by
    rw [← op_toNat, bitField_of_and_eq h (by decide)]
    rfl
  have htop : w.toNat < 4096 := (bitField_top_eq_zero w (lo := 12) (n := 4) rfl).mp (bitField_of_and_eq h (by decide))
  exact ⟨_, (decodeRequest_launch ref n hop).trans (if_pos htop)⟩

/-- A word that fits IRQ's pair has its op code and a zero in bit 7. -/
theorem decodeRequest_of_irq_fits {w : ReqWord} (ref n : Nat) (h : w &&& 0x008F#16 = 0x0003#16) :
    ∃ i, decodeRequest w ref n = .ok i := by
  have hop : w.toNat % 16 = 3 := by
    rw [← op_toNat, bitField_of_and_eq h (by decide)]
    rfl
  have hbit : w.toNat / 128 % 2 = 0 := by
    have : bitField w 7 1 = 0 := bitField_of_and_eq h (by decide)
    simpa [bitField_toNat] using congrArg BitVec.toNat this
  exact ⟨_, (decodeRequest_irq ref n hop).trans (if_pos hbit)⟩

/-- Settles O3: an accepted word fits by its form, and a word that fits has its op code and its zeros. -/
theorem acceptedExactlyByMatchAndMask : Obligations.AcceptedExactlyByMatchAndMask := by
  intro w ref n
  constructor
  · rintro ⟨i, h⟩
    exact fits_of_decodeRequest_ok h
  · rintro (h | h | h | h)
    · exact ⟨.setBuffer ref n, by rw [← and_fullMask w, h]; rfl⟩
    · exact decodeRequest_of_launch_fits ref n h
    · exact decodeRequest_of_irq_fits ref n h
    · exact ⟨.extReset, by rw [← and_fullMask w, h]; rfl⟩

/-- Settles O4: each op code has its own equation, and the conditions on the number of the word exclude one another. -/
theorem refusalReasonOfEveryWord : Obligations.RefusalReasonOfEveryWord := by
  intro w ref n
  rcases op_cases w with hop | hop | hop | hop | hop
  · rw [decodeRequest_setBuffer ref n hop]
    split <;> simp <;> omega
  · rw [decodeRequest_launch ref n hop]
    split <;> simp <;> omega
  · rw [decodeRequest_irq ref n hop]
    split <;> simp <;> omega
  · rw [decodeRequest_extReset ref n hop]
    split <;> simp <;> omega
  · rw [decodeRequest_reserved ref n hop]
    simp
    omega

/-- Settles O5: the decoder evaluated on the eleven words. -/
theorem writtenOutWordsDecode : Obligations.WrittenOutWordsDecode := by
  unfold Obligations.WrittenOutWordsDecode
  decide

/-- Settles O6: a code without a handler is one that names no state. -/
theorem stateCodesSelectTheHandlers : Obligations.StateCodesSelectTheHandlers := by
  refine ⟨rfl, fun c => ?_⟩
  rw [decodeState, Option.map_eq_none_iff, stateOfCode_eq_none]

/-- Settles O7: the assembler takes the encoder's word of an address that fits seven bits. -/
theorem assembledLaunchDecodesToIt : Obligations.AssembledLaunchDecodesToIt := by
  intro a d
  constructor
  · intro h
    exact if_pos h
  · intro h
    refine ⟨launchWord (BitVec.ofNat 7 a) d, if_neg (by omega), ?_, decodeRequest_launchWord _ d 0 0⟩
    have ha : (BitVec.ofNat 7 a).toNat = a := by
      rw [BitVec.toNat_ofNat]
      omega
    rw [launchWord_toNat, ha]
    cases d <;> simp <;> omega

end Sys2Proof

/-! ## What a dispatch does

The state after the dispatch of each handler is written out once (`afterDispatch`); a dispatch that completes ends there, and the
byte handlers complete exactly when the buffer access does. -/

namespace Sys2Proof.Machine

/-! ### The state after a dispatch -/

/-- After H_IDLE (R103). -/
def afterIdle (s : State) : State :=
  { s with state := stateCode .idle, ht := s.ht ++ [stateCode .idle] }

/-- After H_START (R104). -/
def afterStart (s : State) : State :=
  { s with
    state := if s.sad.getLsbD 0 = false then stateCode .transmitByte else stateCode .receiveByte
    ht := s.ht ++ [stateCode .start]
    ct := s.ct ++ [.issueAddr s.sad]
    pend := true }

/-- After H_STOP or an error handler, whose state is `q` (R110, R115). -/
def afterStop (q : FsmState) (s : State) : State :=
  { s with
    state := stateCode .idle
    ht := s.ht ++ [stateCode q]
    ct := s.ct ++ [.issueStop]
    pend := false }

/-- After H_RESET (R111). -/
def afterReset (s : State) : State :=
  { s with
    state := stateCode .idle
    ht := s.ht ++ [stateCode .reset]
    ct := s.ct ++ [.flush, .forceIdle]
    pend := false }

/-- After H_TX, where its buffer access completes (R106, R107). -/
def afterTx (s : State) : State :=
  { s with
    state := if s.cur + 1 ≥ s.len then stateCode .stop else stateCode .transmitByte
    cur := s.cur + 1
    ht := s.ht ++ [stateCode .transmitByte]
    ct := s.ct ++ [.writeData (memRead s.mem (s.buf + s.cur))]
    pend := true }

/-- After H_RX has received `v`, where its buffer access completes (R108, R109). -/
def afterRx (v : Byte) (s : State) : State :=
  { s with
    state := if s.cur + 1 ≥ s.len then stateCode .stop else stateCode .receiveByte
    cur := s.cur + 1
    mem := memWrite s.mem (s.buf + s.cur) v
    ht := s.ht ++ [stateCode .receiveByte]
    ct := s.ct ++ [.readData v]
    pend := true }

/-- After the dispatch of state `q`, where it completes. -/
def afterDispatch (q : FsmState) (rd : Option Byte) (s : State) : State :=
  match q with
  | .idle => afterIdle s
  | .start => afterStart s
  | .stop => afterStop .stop s
  | .reset => afterReset s
  | .transmitByte => afterTx s
  | .receiveByte => afterRx (periphByte rd s).1 (periphByte rd s).2
  | .nackReceived => afterStop .nackReceived s
  | .arbitrationLost => afterStop .arbitrationLost s
  | .busError => afterStop .busError s

/-- The states whose handlers access the buffer. -/
abbrev IsByteState (q : FsmState) : Prop := q = .transmitByte ∨ q = .receiveByte

/-! ### What a dispatch gives -/

/-- The next state H_START returns, through STATE. -/
theorem stateCode_ite_sadIsRead (v : Byte) :
    stateCode (if sadIsRead v then .receiveByte else .transmitByte) =
      if v.getLsbD 0 = false then stateCode .transmitByte else stateCode .receiveByte := by
  unfold sadIsRead
  cases v.getLsbD 0 <;> rfl

/-- The next state a byte handler returns, through STATE. -/
theorem stateCode_ite_stop (p : Prop) [Decidable p] (q : FsmState) :
    stateCode (if p then .stop else q) = if p then stateCode .stop else stateCode q :=
  apply_ite stateCode p .stop q

/-- A handler that accesses no buffer always completes. -/
theorem dispatchOf_of_not_byte {q : FsmState} (hq : ¬ IsByteState q) (rd : Option Byte) (s : State) :
    dispatchOf q (handler q rd) s = .done (afterDispatch q rd s) := by
  cases q with
  | transmitByte => exact absurd (.inl rfl) hq
  | receiveByte => exact absurd (.inr rfl) hq
  | start =>
    simp only [dispatchOf, handler, hStart, Effect.bind_done, State.setState, stateCode_ite_sadIsRead]
    rfl
  | reset =>
    simp [dispatchOf, handler, hReset, afterDispatch, afterReset, State.setState, State.sendCmd, State.pushHandler, cmdOwes]
  | idle => rfl
  | stop => rfl
  | nackReceived => rfl
  | arbitrationLost => rfl
  | busError => rfl

/-- The HT entry of a dispatch does not reach the buffer access. -/
@[simp] theorem bufAccess_pushHandler (s : State) (c : StCode) : bufAccess (s.pushHandler c) = bufAccess s := rfl

/-- A byte handler's dispatch goes the way of its buffer access (R106, R108, R169). -/
theorem dispatchOf_of_byte {q : FsmState} (hq : IsByteState q) (rd : Option Byte) (s : State) :
    dispatchOf q (handler q rd) s = (bufAccess s).bind fun _ => .done (afterDispatch q rd s) := by
  cases hacc : bufAccess s with
  | raise r => rcases hq with rfl | rfl <;> simp [dispatchOf, handler, hTx, hRx, hacc]
  | stuck a => rcases hq with rfl | rfl <;> simp [dispatchOf, handler, hTx, hRx, hacc]
  | done a =>
    obtain ⟨-, -, rfl⟩ := bufAccess_eq_done.mp hacc
    rcases hq with rfl | rfl
    · simp only [dispatchOf, handler, hTx, bufAccess_pushHandler, hacc, Effect.bind_done, advance, State.setState,
        stateCode_ite_stop]
      rfl
    · simp only [dispatchOf, handler, hRx, bufAccess_pushHandler, hacc, Effect.bind_done, advance, State.setState,
        stateCode_ite_stop]
      cases rd <;> rfl

/-- The buffer access gives an address: there is a byte left and its address is admitted. -/
abbrev CanAccess (s : State) : Prop := s.cur < s.len ∧ memAdmit s.params (s.buf + s.cur) = true

theorem bufAccess_of_canAccess {s : State} (h : CanAccess s) : bufAccess s = .done (s.buf + s.cur) :=
  bufAccess_eq_done.mpr ⟨h.left, h.right, rfl⟩

/-- Where the buffer can be accessed, every dispatch completes. -/
theorem dispatchOf_of_canAccess {s : State} (h : CanAccess s) (q : FsmState) (rd : Option Byte) :
    dispatchOf q (handler q rd) s = .done (afterDispatch q rd s) := by
  by_cases hq : IsByteState q
  · rw [dispatchOf_of_byte hq, bufAccess_of_canAccess h, Effect.bind_done]
  · exact dispatchOf_of_not_byte hq rd s

/-- All a dispatch that completes can have done. -/
theorem dispatchOf_done {q : FsmState} {rd : Option Byte} {s t : State} (h : dispatchOf q (handler q rd) s = .done t) :
    t = afterDispatch q rd s ∧ (IsByteState q → CanAccess s) := by
  by_cases hq : IsByteState q
  · rw [dispatchOf_of_byte hq, Effect.bind_eq_done] at h
    obtain ⟨a, hacc, ht⟩ := h
    obtain ⟨hcur, hadm, -⟩ := bufAccess_eq_done.mp hacc
    exact ⟨(Effect.done.inj ht).symm, fun _ => ⟨hcur, hadm⟩⟩
  · rw [dispatchOf_of_not_byte hq] at h
    exact ⟨(Effect.done.inj h).symm, fun hb => absurd hb hq⟩

/-- Only a byte handler's dispatch raises a fault: that of its buffer access. -/
theorem dispatchOf_raise {q : FsmState} {rd : Option Byte} {s : State} {r : FaultRecord}
    (h : dispatchOf q (handler q rd) s = .raise r) : IsByteState q ∧ bufAccess s = .raise r := by
  by_cases hq : IsByteState q
  · rw [dispatchOf_of_byte hq, Effect.bind_eq_raise] at h
    simpa [hq] using h
  · rw [dispatchOf_of_not_byte hq] at h
    cases h

/-! ### What the state after a dispatch keeps and appends -/

section
variable (q : FsmState) (rd : Option Byte) (s : State)

@[simp] theorem afterDispatch_sad : (afterDispatch q rd s).sad = s.sad := by cases q <;> cases rd <;> rfl
@[simp] theorem afterDispatch_buf : (afterDispatch q rd s).buf = s.buf := by cases q <;> cases rd <;> rfl
@[simp] theorem afterDispatch_len : (afterDispatch q rd s).len = s.len := by cases q <;> cases rd <;> rfl
@[simp] theorem afterDispatch_lastErr : (afterDispatch q rd s).lastErr = s.lastErr := by cases q <;> cases rd <;> rfl
@[simp] theorem afterDispatch_fault : (afterDispatch q rd s).fault = s.fault := by cases q <;> cases rd <;> rfl
@[simp] theorem afterDispatch_refused : (afterDispatch q rd s).refused = s.refused := by cases q <;> cases rd <;> rfl
@[simp] theorem afterDispatch_launchesOwed : (afterDispatch q rd s).launchesOwed = s.launchesOwed := by
  cases q <;> cases rd <;> rfl
@[simp] theorem afterDispatch_inputs : (afterDispatch q rd s).inputs = s.inputs := by cases q <;> cases rd <;> rfl
@[simp] theorem afterDispatch_params : (afterDispatch q rd s).params = s.params := by cases q <;> cases rd <;> rfl

/-- One dispatch, one code in HT (R35, R100). -/
@[simp] theorem afterDispatch_ht : (afterDispatch q rd s).ht = s.ht ++ [stateCode q] := by
  cases q <;> cases rd <;> rfl

end

section
variable {q : FsmState} (rd : Option Byte) (s : State)

theorem afterDispatch_cur_of_not_byte (hq : ¬ IsByteState q) : (afterDispatch q rd s).cur = s.cur := by
  cases q with
  | transmitByte => exact absurd (.inl rfl) hq
  | receiveByte => exact absurd (.inr rfl) hq
  | _ => rfl

theorem afterDispatch_cur_of_byte (hq : IsByteState q) : (afterDispatch q rd s).cur = s.cur + 1 := by
  rcases hq with rfl | rfl <;> cases rd <;> rfl

/-- Only H_RX stores a byte. -/
theorem afterDispatch_mem_of_ne (hq : q ≠ .receiveByte) : (afterDispatch q rd s).mem = s.mem := by
  cases q with
  | receiveByte => exact absurd rfl hq
  | _ => rfl

theorem afterDispatch_receiveByte_mem :
    (afterDispatch .receiveByte rd s).mem = memWrite s.mem (s.buf + s.cur) (periphByte rd s).1 := by
  cases rd <;> rfl

/-- Only H_RX outside an IRQ takes a draw. -/
theorem afterDispatch_draws (hq : q ≠ .receiveByte ∨ rd ≠ none) : (afterDispatch q rd s).draws = s.draws := by
  cases q with
  | receiveByte =>
    cases rd with
    | none => simp at hq
    | some v => rfl
  | _ => rfl

/-! ### Where a dispatch ends -/

/-- The next state of the FSM that the handler of `q` returns (R103 to R114). -/
def nextState (q : FsmState) (s : State) : FsmState :=
  match q with
  | .start => if s.sad.getLsbD 0 = false then .transmitByte else .receiveByte
  | .transmitByte => if s.cur + 1 ≥ s.len then .stop else .transmitByte
  | .receiveByte => if s.cur + 1 ≥ s.len then .stop else .receiveByte
  | .idle => .idle
  | .stop => .idle
  | .reset => .idle
  | .nackReceived => .idle
  | .arbitrationLost => .idle
  | .busError => .idle

theorem afterDispatch_state : (afterDispatch q rd s).state = stateCode (nextState q s) := by
  cases q with
  | start => exact (apply_ite stateCode _ _ _).symm
  | transmitByte => exact (apply_ite stateCode _ _ _).symm
  | receiveByte => cases rd <;> exact (apply_ite stateCode _ _ _).symm
  | idle => rfl
  | stop => rfl
  | reset => rfl
  | nackReceived => rfl
  | arbitrationLost => rfl
  | busError => rfl

/-- A handler never returns Start, Reset or an error state (R38). -/
theorem nextState_cases : nextState q s = .idle ∨ nextState q s = .transmitByte ∨ nextState q s = .receiveByte ∨
    nextState q s = .stop := by
  cases q with
  | start | transmitByte | receiveByte =>
    simp only [nextState]
    split <;> simp
  | idle | stop | reset | nackReceived | arbitrationLost | busError => exact .inl rfl

/-- The states that go on: Start and the two byte states return another state than Idle, the other six return Idle. -/
theorem nextState_eq_idle : nextState q s = .idle ↔ ¬ (q = .start ∨ IsByteState q) := by
  cases q with
  | start | transmitByte | receiveByte =>
    simp only [nextState]
    split <;> simp
  | idle | stop | reset | nackReceived | arbitrationLost | busError => simp [nextState]

/-- A dispatch that does not end idle has sent an address or a data command, so an interrupt is owed (R179). -/
theorem afterDispatch_pend_of_active (h : nextState q s ≠ .idle) : (afterDispatch q rd s).pend = true := by
  rw [ne_eq, nextState_eq_idle, not_not] at h
  rcases h with rfl | rfl | rfl
  · rfl
  · rfl
  · cases rd <;> rfl

/-- A dispatch that ends idle has sent a stop or forced the peripheral idle, unless it ran H_IDLE (R179). -/
theorem afterDispatch_pend_of_idle (h : nextState q s = .idle) (hidle : q = .idle → s.pend = false) :
    (afterDispatch q rd s).pend = false := by
  rw [nextState_eq_idle] at h
  cases q with
  | idle => exact hidle rfl
  | start | transmitByte | receiveByte => simp at h
  | stop | reset | nackReceived | arbitrationLost | busError => rfl

/-- One dispatch sends at most two commands (R34, R117). -/
theorem afterDispatch_ct : ∃ cs : List Cmd, (afterDispatch q rd s).ct = s.ct ++ cs ∧ cs.length ≤ 2 := by
  cases q with
  | idle => exact ⟨[], (List.append_nil s.ct).symm, by simp⟩
  | receiveByte => cases rd <;> exact ⟨[_], rfl, by simp⟩
  | start | stop | transmitByte | nackReceived | arbitrationLost | busError => exact ⟨[_], rfl, by simp⟩
  | reset => exact ⟨[_, _], rfl, by simp⟩

end

end Sys2Proof.Machine

/-! ## Instructions on a block that runs

Every instruction is one atomic operation; its body is named here, and each body has one equation for each way it can go. -/

namespace Sys2Proof.Machine

/-! ### Instructions and their bodies -/

/-- What an instruction's operation does. -/
def bodyOf (i : Instr) : State → Effect State :=
  match i with
  | .setBuffer ref n => setBufferBody ref n
  | .launch addr read => launchBody addr read
  | .irq nack arb berr rd => irqBody nack arb berr rd
  | .extReset => extResetBody
  | .hIdle => dispatchOf .idle (handler .idle none)
  | .hStart => dispatchOf .start (handler .start none)
  | .hStop => dispatchOf .stop (handler .stop none)
  | .hReset => dispatchOf .reset (handler .reset none)
  | .hTx => dispatchOf .transmitByte (handler .transmitByte none)
  | .hRx => dispatchOf .receiveByte (handler .receiveByte none)
  | .hNack => dispatchOf .nackReceived (handler .nackReceived none)
  | .hArb => dispatchOf .arbitrationLost (handler .arbitrationLost none)
  | .hBuserr => dispatchOf .busError (handler .busError none)

theorem exec_eq_operation (i : Instr) : exec i = operation (bodyOf i) := by
  cases i <;> rfl

theorem bodyOf_handlerOf (q : FsmState) : bodyOf (handlerOf q) = dispatchOf q (handler q none) := by
  cases q <;> rfl

/-- An operation depends on its body at the state it begins in. -/
theorem operation_congr {f g : State → Effect State} {s : State} (h : f s = g s) : operation f s = operation g s := by
  simp [operation, whenRunning, h]

theorem exec_of_running {s : State} (h : s.Running) (i : Instr) : exec i s = finish s (bodyOf i s) := by
  rw [exec_eq_operation, operation_of_clear h.left h.right]

/-- On a block that runs, an instruction whose body completes gives its result. -/
theorem exec_of_body_done {s t : State} {i : Instr} (h : s.Running) (hb : bodyOf i s = .done t) : exec i s = .next t := by
  rw [exec_of_running h, hb, finish_done]

/-- On a block that runs, an instruction whose body raises a fault sets FAULT only. -/
theorem exec_of_body_raise {s : State} {i : Instr} {r : FaultRecord} (h : s.Running) (hb : bodyOf i s = .raise r) :
    exec i s = .next (s.markFault r) := by
  rw [exec_of_running h, hb, finish_raise]

/-- An instruction that gives a next state ran on clear marks and completed, or raised a fault. -/
theorem exec_eq_next {s t : State} {i : Instr} (h : exec i s = .next t) :
    s.Running ∧ (bodyOf i s = .done t ∨ ∃ r, bodyOf i s = .raise r ∧ t = s.markFault r) := by
  rw [exec_eq_operation, operation_eq_next] at h
  obtain ⟨hf, hr, hb⟩ := h
  exact ⟨⟨hf, hr⟩, hb⟩

/-! ### SET_BUFFER -/

theorem setBufferBody_of_idle {s : State} (ref n : Nat) (h : s.state = stateCode .idle) :
    setBufferBody ref n s = .done (s.assignBuffer (portRef s.params ref) (portN s.params n)) := by
  rw [setBufferBody, isActive_of_idle h]
  rfl

theorem setBufferBody_of_active {s : State} (ref n : Nat) (h : s.state ≠ stateCode .idle) :
    setBufferBody ref n s = .raise (.setBufferWhileBusy s.state (portRef s.params ref) (portN s.params n)) :=
  if_pos ((isActive_iff s).mpr h)

/-- Operands that fit their ports go through them unchanged (R72). -/
theorem port_of_wf {p : Params} {ref n : Nat} (h : (Instr.setBuffer ref n).wf p = true) :
    portRef p ref = ref ∧ portN p n = n := by
  simp only [Instr.wf, Bool.and_eq_true, decide_eq_true_eq] at h
  exact ⟨Nat.mod_eq_of_lt h.left, Nat.mod_eq_of_lt h.right⟩

/-! ### LAUNCH -/

section
variable {s : State} (a : BitVec 7) (d : Bool)

/-- The dispatch of a LAUNCH is that of Start: it runs H_START on the new SAD (R141). -/
theorem launchBody_of_idle_atomic (h : s.state = stateCode .idle) (hp : s.params.atomicLaunch = true) :
    launchBody a d s = .done (afterDispatch .start none (launchSetup a d s)) := by
  have hstart : stateOfCode (launchSetup a d s).state = some .start := rfl
  rw [launchBody, isActive_of_idle h, hp, dispatch_of_code hstart, dispatchOf_of_not_byte (by decide)]
  rfl

theorem launchBody_of_idle_split (h : s.state = stateCode .idle) (hp : s.params.atomicLaunch = false) :
    launchBody a d s = .done ((launchSetup a d s).setLaunchesOwed (s.launchesOwed + 1)) := by
  rw [launchBody, isActive_of_idle h, hp]
  rfl

/-- The state after a LAUNCH from idle with ATOMIC_LAUNCH: the direction bit of SAD is the operand D (R82, R104). -/
theorem afterDispatch_start_launchSetup :
    afterDispatch .start none (launchSetup a d s) =
      { s with
        sad := a ++ BitVec.ofBool d
        lastErr := if s.params.hasLastError then 0 else s.lastErr
        state := if d then stateCode .receiveByte else stateCode .transmitByte
        ht := s.ht ++ [stateCode .start]
        ct := s.ct ++ [.issueAddr (a ++ BitVec.ofBool d)]
        pend := true } := by
  have hdir : (sadOf a d).getLsbD 0 = d := sadIsRead_sadOf a d
  simp only [afterDispatch, afterStart, launchSetup, State.setState_sad, State.setLastErr_sad, State.setSad_sad, hdir]
  cases d <;> rfl

end

/-! ### IRQ -/

/-- The error state the flags force, the last match winning (R132). -/
def forcedState (arb berr : Bool) : FsmState :=
  if berr then .busError else if arb then .arbitrationLost else .nackReceived

theorem forcedState_mem (l b : Bool) : forcedState l b ∈ [FsmState.nackReceived, .arbitrationLost, .busError] := by
  cases l <;> cases b <;> decide

/-- With a flag set, the override is the test of the forced state alone. -/
theorem override_of_flag {k l b : Bool} (h : (k || l || b) = true) (s : State) :
    override k l b s = forceError true (forcedState l b) s := by
  rw [override_eq_last_forceError]
  cases b with
  | true => rfl
  | false =>
    cases l with
    | true => rfl
    | false =>
      cases k with
      | true => rfl
      | false => cases h

theorem forcedState_not_byte (l b : Bool) : ¬ IsByteState (forcedState l b) := by
  cases l <;> cases b <;> decide

theorem forcedState_ne_idle (l b : Bool) : forcedState l b ≠ .idle := by
  cases l <;> cases b <;> decide

theorem nextState_forcedState (l b : Bool) (s : State) : nextState (forcedState l b) s = .idle := by
  cases l <;> cases b <;> rfl

theorem override_state_of_flag {k l b : Bool} (h : (k || l || b) = true) (s : State) :
    (override k l b s).state = stateCode (forcedState l b) := by
  rw [override_of_flag h]
  rfl

/-- With no flag set the override leaves everything as it is. -/
theorem override_of_no_flag {k l b : Bool} (h : (k || l || b) = false) (s : State) : override k l b s = s := by
  simp only [Bool.or_eq_false_iff] at h
  obtain ⟨⟨rfl, rfl⟩, rfl⟩ := h
  rfl

/-- An IRQ with a flag runs the forced error state's handler, whatever STATE held (R132, R136). -/
theorem irqBody_of_flag {k l b : Bool} (h : (k || l || b) = true) (rd : Byte) (s : State) :
    irqBody k l b rd s = .done (afterDispatch (forcedState l b) (some rd) (override k l b s.clearPend)) := by
  have hq : stateOfCode (override k l b s.clearPend).state = some (forcedState l b) := by
    rw [override_state_of_flag h, stateOfCode_stateCode]
  rw [irqBody, dispatch_of_code hq, dispatchOf_of_not_byte (forcedState_not_byte l b)]

/-- An IRQ without a flag dispatches STATE once PEND is cleared (R131, R179). -/
theorem irqBody_of_state {s : State} {q : FsmState} (h : s.state = stateCode q) (rd : Byte) :
    irqBody false false false rd s = dispatchOf q (handler q (some rd)) s.clearPend := by
  have hq : stateOfCode (override false false false s.clearPend).state = some q := by
    simp [h]
  rw [irqBody, dispatch_of_code hq, override_none]

theorem irqBody_of_illegal {s : State} (h : 9 ≤ s.state.toNat) (rd : Byte) :
    irqBody false false false rd s = .raise (.illegalState s.state) := by
  have hq : stateOfCode (override false false false s.clearPend).state = none := stateOfCode_eq_none.mpr h
  rw [irqBody, dispatch_illegal hq]
  rfl

/-! ### EXT_RESET -/

theorem extResetBody_eq (s : State) : extResetBody s = .done (afterDispatch .reset none (s.setState .reset)) := by
  have hq : stateOfCode (s.setState .reset).state = some .reset := rfl
  rw [extResetBody, dispatch_of_code hq, dispatchOf_of_not_byte (by decide)]

/-! ### Handlers -/

/-- The row of a handler that accesses no buffer completes. -/
theorem exec_handlerOf_of_not_byte {s : State} {q : FsmState} (h : s.Running) (hq : ¬ IsByteState q) :
    exec (handlerOf q) s = .next (afterDispatch q none s) :=
  exec_of_body_done h (by rw [bodyOf_handlerOf, dispatchOf_of_not_byte hq])

/-- The row of a byte handler completes where the buffer can be accessed. -/
theorem exec_handlerOf_of_canAccess {s : State} (q : FsmState) (h : s.Running) (hacc : CanAccess s) :
    exec (handlerOf q) s = .next (afterDispatch q none s) :=
  exec_of_body_done h (by rw [bodyOf_handlerOf, dispatchOf_of_canAccess hacc])

/-- The instructions that run a byte handler: their bodies go the way of the buffer access. -/
theorem bodyOf_of_byte {s : State} {i : Instr} {rd : Byte}
    (h : (i = .irq false false false rd ∧ (s.state = stateCode .transmitByte ∨ s.state = stateCode .receiveByte)) ∨
      i = .hTx ∨ i = .hRx) :
    ∃ t, bodyOf i s = (bufAccess s).bind fun _ => .done t := by
  rcases h with ⟨rfl, hst | hst⟩ | rfl | rfl
  · exact ⟨_, (irqBody_of_state hst rd).trans (dispatchOf_of_byte (.inl rfl) _ _)⟩
  · exact ⟨_, (irqBody_of_state hst rd).trans (dispatchOf_of_byte (.inr rfl) _ _)⟩
  · exact ⟨_, dispatchOf_of_byte (.inl rfl) none s⟩
  · exact ⟨_, dispatchOf_of_byte (.inr rfl) none s⟩

end Sys2Proof.Machine

/-! ## The instructions settled one by one -/

namespace Sys2Proof.Machine

/-! ### Marks and faults -/

theorem step_of_fault {s : State} {r : FaultRecord} (hf : s.fault = some r) : step s = .fault (.faulted r) :=
  whenRunning_of_fault (fun s => runEvent (nextEvent s) (takeEvent s)) hf

theorem step_of_refused {s : State} {r : RefusalReason} (hf : s.fault = none) (hr : s.refused = some r) :
    step s = .refused (.requestRefused r) :=
  whenRunning_of_refused (fun s => runEvent (nextEvent s) (takeEvent s)) hf hr

/-- Settles O12: a step and every instruction look at the marks first. -/
theorem nothingStepsOnceAMarkIsSet : Obligations.NothingStepsOnceAMarkIsSet := by
  intro s i
  rw [exec_eq_operation]
  exact ⟨fun r hf => ⟨step_of_fault hf, whenRunning_of_fault _ hf⟩,
    fun r hf hr => ⟨step_of_refused hf hr, whenRunning_of_refused _ hf hr⟩⟩

/-- A dispatch that completes leaves FAULT alone. -/
theorem dispatch_done_fault {rd : Option Byte} {s t : State} (h : dispatch rd s = .done t) : t.fault = s.fault := by
  obtain ⟨q, hq, -⟩ := dispatch_eq_done.mp h
  rw [dispatch_of_code hq] at h
  obtain ⟨rfl, -⟩ := dispatchOf_done h
  exact afterDispatch_fault q rd s

theorem setBufferBody_done_fault {ref n : Nat} {s t : State} (h : setBufferBody ref n s = .done t) :
    t.fault = s.fault := by
  by_cases hidle : s.state = stateCode .idle
  · rw [setBufferBody_of_idle ref n hidle] at h
    cases h
    rfl
  · rw [setBufferBody_of_active ref n hidle] at h
    cases h

theorem launchBody_done_fault {a : BitVec 7} {d : Bool} {s t : State} (h : launchBody a d s = .done t) :
    t.fault = s.fault := by
  unfold launchBody at h
  split at h
  · cases h
    rfl
  · split at h
    · have hf := dispatch_done_fault h
      exact hf
    · cases h
      rfl

/-- No body that completes sets FAULT. -/
theorem bodyOf_done_fault {i : Instr} {s t : State} (h : bodyOf i s = .done t) : t.fault = s.fault := by
  have hrow : ∀ q : FsmState, dispatchOf q (handler q none) s = .done t → t.fault = s.fault := by
    intro q hq
    obtain ⟨rfl, -⟩ := dispatchOf_done hq
    exact afterDispatch_fault q none s
  cases i with
  | setBuffer ref n => exact setBufferBody_done_fault h
  | launch a d => exact launchBody_done_fault h
  | irq k l b rd => simpa using dispatch_done_fault h
  | extReset =>
    cases (extResetBody_eq s).symm.trans h
    rfl
  | _ => exact hrow _ h

/-- Settles O13: a body that completes leaves FAULT clear, so a fault was raised, and raising one changes nothing else. -/
theorem faultingOperationChangesFaultOnly : Obligations.FaultingOperationChangesFaultOnly := by
  intro s t i h hfault
  obtain ⟨hrun, hdone | ⟨r, -, ht⟩⟩ := exec_eq_next h
  · exact absurd ((bodyOf_done_fault hdone).trans hrun.left) hfault
  · exact ⟨r, ht⟩

/-! ### SET_BUFFER -/

/-- Settles O15: operands that fit go through the ports unchanged. -/
theorem setBufferStoresReferenceAndLength : Obligations.SetBufferStoresReferenceAndLength := by
  intro s ref n hrun hwf
  obtain ⟨href, hn⟩ := port_of_wf hwf
  refine ⟨rfl, fun hidle => exec_of_body_done hrun ?_, fun hactive => exec_of_body_raise hrun ?_⟩
  · refine (setBufferBody_of_idle ref n hidle).trans ?_
    rw [href, hn]
    rfl
  · refine (setBufferBody_of_active ref n hactive).trans ?_
    rw [href, hn]

/-- Settles O16: a remainder goes through a port as the number does. -/
theorem operandPortsCarryTheirWidth : Obligations.OperandPortsCarryTheirWidth := by
  intro s ref n
  exact operation_congr (by simp only [setBufferBody, portRef, portN, Nat.mod_mod])

/-- Settles O17: SET_BUFFER ends with the buffer assigned, or with FAULT set. -/
theorem setBufferFrame : Obligations.SetBufferFrame := by
  intro s t ref n h
  obtain ⟨-, hdone | ⟨r, -, rfl⟩⟩ := exec_eq_next h
  · by_cases hidle : s.state = stateCode .idle
    · cases (setBufferBody_of_idle ref n hidle).symm.trans hdone
      simp [SameBytes]
    · cases (setBufferBody_of_active ref n hidle).symm.trans hdone
  · simp [SameBytes]

/-! ### LAUNCH -/

/-- Settles O18: the body is the set-up and the dispatch of H_START. -/
theorem launchFromIdleIssuesTheAddress : Obligations.LaunchFromIdleIssuesTheAddress := by
  intro s a d hrun hatomic hidle
  rw [← afterDispatch_start_launchSetup]
  exact exec_of_body_done hrun (launchBody_of_idle_atomic a d hidle hatomic)

/-- Settles O20: the body is the set-up alone, with one LAUNCH_B more owed. -/
theorem splitLaunchStopsAtStart : Obligations.SplitLaunchStopsAtStart := by
  intro s a d hrun hsplit hidle
  exact exec_of_body_done hrun (launchBody_of_idle_split a d hidle hsplit)

/-- Settles O22: a LAUNCH is a no-op, a set-up with a dispatch of H_START, or a set-up with one more LAUNCH_B owed. -/
theorem launchFrame : Obligations.LaunchFrame := by
  intro s t a d h
  obtain ⟨hrun, -⟩ := exec_eq_next h
  by_cases hidle : s.state = stateCode .idle
  · cases hatomic : s.params.atomicLaunch with
    | true =>
      cases (launchFromIdleIssuesTheAddress s a d hrun hatomic hidle).symm.trans h
      simp +contextual [SameBytes]
    | false =>
      cases (splitLaunchStopsAtStart s a d hrun hatomic hidle).symm.trans h
      simp +contextual [SameBytes]
  · cases (launchWhileActiveChangesNothing s a d hrun hidle).symm.trans h
    simp [SameBytes]

/-! ### IRQ -/

/-- The state after an IRQ with a flag. -/
theorem afterDispatch_forcedState {k l b : Bool} (h : (k || l || b) = true) (rd : Byte) (s : State) :
    afterDispatch (forcedState l b) (some rd) (override k l b s.clearPend) =
      { s with
        state := stateCode .idle
        lastErr := if s.params.hasLastError then lastErrCode (forcedState l b) else s.lastErr
        ht := s.ht ++ [stateCode (forcedState l b)]
        ct := s.ct ++ [.issueStop]
        pend := false } := by
  rw [override_of_flag h]
  cases l <;> cases b <;> rfl

/-- An IRQ with a flag runs the forced state's handler and ends idle. -/
theorem exec_irq_of_flag {k l b : Bool} {s : State} (hrun : s.Running) (h : (k || l || b) = true) (rd : Byte) :
    exec (.irq k l b rd) s = .next
      { s with
        state := stateCode .idle
        lastErr := if s.params.hasLastError then lastErrCode (forcedState l b) else s.lastErr
        ht := s.ht ++ [stateCode (forcedState l b)]
        ct := s.ct ++ [.issueStop]
        pend := false } := by
  rw [← afterDispatch_forcedState h rd]
  exact exec_of_body_done hrun (irqBody_of_flag h rd s)

/-- Settles O24: the forced state and its LASTERR code, flag by flag. -/
theorem irqWithAFlagEndsIdle : Obligations.IrqWithAFlagEndsIdle := by
  intro s k l b rd hrun h
  rw [exec_irq_of_flag hrun h]
  cases b with
  | true => rfl
  | false => cases l <;> rfl

/-- An IRQ without a flag runs the handler of a state that accesses no buffer. -/
theorem exec_irq_of_not_byte {s : State} {q : FsmState} (hrun : s.Running) (hs : s.state = stateCode q)
    (hq : ¬ IsByteState q) (rd : Byte) :
    exec (.irq false false false rd) s = .next (afterDispatch q (some rd) s.clearPend) :=
  exec_of_body_done hrun ((irqBody_of_state hs rd).trans (dispatchOf_of_not_byte hq _ _))

/-- An IRQ without a flag runs the handler of any state where the buffer can be accessed. -/
theorem exec_irq_of_canAccess {s : State} {q : FsmState} (hrun : s.Running) (hs : s.state = stateCode q)
    (hacc : CanAccess s) (rd : Byte) :
    exec (.irq false false false rd) s = .next (afterDispatch q (some rd) s.clearPend) := by
  have hclear : CanAccess s.clearPend := hacc
  exact exec_of_body_done hrun ((irqBody_of_state hs rd).trans (dispatchOf_of_canAccess hclear _ _))

/-- Settles O25: neither H_IDLE nor H_STOP accesses the buffer; STATE is Idle before and after H_IDLE. -/
theorem irqWithoutAFlagInIdleOrStop : Obligations.IrqWithoutAFlagInIdleOrStop := by
  intro s rd hrun
  constructor
  · intro hs
    rw [exec_irq_of_not_byte hrun hs (by decide)]
    simp only [afterDispatch, afterIdle, ← hs]
    rfl
  · intro hs
    exact exec_irq_of_not_byte hrun hs (by decide) rd

/-- Only H_RX reads the byte of the IRQ. -/
theorem afterDispatch_rd_irrelevant {q : FsmState} (hq : q ≠ .receiveByte) (rd rd' : Option Byte) (s : State) :
    afterDispatch q rd s = afterDispatch q rd' s := by
  cases q with
  | receiveByte => exact absurd rfl hq
  | _ => rfl

/-- Settles O26: the IRQ and the row run one dispatch, and RD is not read. -/
theorem irqWithoutAFlagRunsTheHandlerOfState : Obligations.IrqWithoutAFlagRunsTheHandlerOfState := by
  intro s q rd hrun hs htx hrx
  have hq : ¬ IsByteState q := not_or.mpr ⟨htx, hrx⟩
  have hclear : s.clearPend.Running := hrun
  have hirq := exec_irq_of_not_byte hrun hs hq rd
  refine ⟨?_, _, hirq, ?_, afterDispatch_ht q _ _⟩
  · rw [hirq, afterDispatch_rd_irrelevant hrx (some rd) none]
    exact (exec_handlerOf_of_not_byte hclear hq).symm
  · simpa using hrun.left

/-- Settles O27: the dispatch of H_TX sets PEND again after the delivery has cleared it. -/
theorem irqTransmitsTheByteAtTheCursor : Obligations.IrqTransmitsTheByteAtTheCursor := by
  intro s rd hrun hs hcur hadm
  exact exec_irq_of_canAccess hrun hs ⟨hcur, hadm⟩ rd

/-- Settles O28: the memory after is the written one. -/
theorem irqStoresTheReceivedByte : Obligations.IrqStoresTheReceivedByte := by
  intro s rd hrun hmem hs hcur hadm
  exact ⟨memWrite s.mem (s.buf + s.cur) rd, memRead_memWrite_same _ rd hmem,
    fun a ha => memRead_memWrite_other rd hmem ha, exec_irq_of_canAccess hrun hs ⟨hcur, hadm⟩ rd⟩

/-- Settles O30: a byte handler goes the way of its buffer access. -/
theorem byteHandlerStopsInOrder : Obligations.ByteHandlerStopsInOrder := by
  intro s i rd hrun hi
  obtain ⟨t, hbody⟩ := bodyOf_of_byte hi
  rw [exec_of_running hrun, hbody]
  refine ⟨fun h => ?_, fun h ho => ?_, fun h hin hadm => ?_⟩
  · rw [bufAccess_overrun h]
    rfl
  · rw [bufAccess_overflow h ho]
    rfl
  · rw [bufAccess_stuck h hin hadm]
    rfl

/-! ### EXT_RESET and the rows of the handlers -/

/-- Settles O32: STATE is Reset for the dispatch only. -/
theorem extResetFlushesAndGoesIdle : Obligations.ExtResetFlushesAndGoesIdle := by
  intro s hrun
  exact exec_of_body_done hrun (extResetBody_eq s)

/-- Settles O33: `afterIdle` is the statement's state. -/
theorem idleHandlerDoesNothing : Obligations.IdleHandlerDoesNothing := by
  intro s hrun
  exact exec_handlerOf_of_not_byte (q := .idle) hrun (by decide)

/-- Settles O34: `afterStart` is the statement's state. -/
theorem startHandlerIssuesTheAddress : Obligations.StartHandlerIssuesTheAddress := by
  intro s hrun
  exact exec_handlerOf_of_not_byte (q := .start) hrun (by decide)

/-- Settles O35: without a flag the IRQ runs H_STOP; with one it runs the forced state's handler. -/
theorem stopHandlerIssuesTheStop : Obligations.StopHandlerIssuesTheStop := by
  refine ⟨rfl, fun s hrun => ⟨exec_handlerOf_of_not_byte (q := .stop) hrun (by decide), fun hs k l b rd => ?_⟩⟩
  cases hflag : k || l || b with
  | true =>
    exact ⟨_, exec_irq_of_flag hrun hflag rd, rfl, rfl, nofun, fun _ => ⟨forcedState l b, forcedState_mem l b, rfl⟩⟩
  | false =>
    simp only [Bool.or_eq_false_iff] at hflag
    obtain ⟨⟨rfl, rfl⟩, rfl⟩ := hflag
    exact ⟨_, exec_irq_of_not_byte hrun hs (by decide) rd, rfl, rfl, fun _ => rfl, nofun⟩

/-- Settles O36: `afterReset` is the statement's state. -/
theorem resetHandlerFlushes : Obligations.ResetHandlerFlushes := by
  intro s hrun
  exact exec_handlerOf_of_not_byte (q := .reset) hrun (by decide)

/-- Settles O37: the three rows and the three forced states run one handler. -/
theorem errorHandlersIssueTheStop : Obligations.ErrorHandlersIssueTheStop := by
  intro s hrun
  constructor
  · rintro i q (⟨rfl, rfl⟩ | ⟨rfl, rfl⟩ | ⟨rfl, rfl⟩)
    · exact exec_handlerOf_of_not_byte (q := .nackReceived) hrun (by decide)
    · exact exec_handlerOf_of_not_byte (q := .arbitrationLost) hrun (by decide)
    · exact exec_handlerOf_of_not_byte (q := .busError) hrun (by decide)
  · intro k l b rd hflag
    exact ⟨forcedState l b, _, forcedState_mem l b, fun habsent => by simp [habsent], exec_irq_of_flag hrun hflag rd⟩

/-- Settles O38: `afterTx` is the statement's state. -/
theorem transmitHandlerSendsOneByte : Obligations.TransmitHandlerSendsOneByte := by
  intro s hrun hcur hadm
  exact exec_handlerOf_of_canAccess .transmitByte hrun ⟨hcur, hadm⟩

/-- Settles O39: outside an IRQ the byte is the free draw at the draw counter. -/
theorem receiveHandlerStoresOneByte : Obligations.ReceiveHandlerStoresOneByte := by
  intro s hrun hmem hcur hadm
  exact ⟨memWrite s.mem (s.buf + s.cur) (Config.freeRead s.draws), Config.freeRead s.draws,
    memRead_memWrite_same _ _ hmem, fun a ha => memRead_memWrite_other _ hmem ha,
    exec_handlerOf_of_canAccess .receiveByte hrun ⟨hcur, hadm⟩⟩

/-! ### Frames of the handlers and of IRQ -/

/-- A handler's row that gives a next state completed its dispatch, or its buffer access raised a fault. -/
theorem exec_handlerOf_next {q : FsmState} {s t : State} (h : exec (handlerOf q) s = .next t) :
    (t = afterDispatch q none s ∧ (IsByteState q → CanAccess s)) ∨ (IsByteState q ∧ ∃ r, t = s.markFault r) := by
  obtain ⟨-, hdone | ⟨r, hraise, ht⟩⟩ := exec_eq_next h
  · rw [bodyOf_handlerOf] at hdone
    exact .inl (dispatchOf_done hdone)
  · rw [bodyOf_handlerOf] at hraise
    exact .inr ⟨(dispatchOf_raise hraise).left, r, ht⟩

/-- An IRQ without a flag that gives a next state completed the dispatch of STATE, or raised a fault. -/
theorem exec_irq_next_of_no_flag {rd : Byte} {s t : State} (h : exec (.irq false false false rd) s = .next t) :
    (∃ q, s.state = stateCode q ∧ t = afterDispatch q (some rd) s.clearPend ∧ (IsByteState q → CanAccess s)) ∨
      ∃ r, t = s.markFault r := by
  obtain ⟨-, hdone | ⟨r, -, ht⟩⟩ := exec_eq_next h
  · have hdispatch : dispatch (some rd) s.clearPend = .done t := hdone
    obtain ⟨q, hq, -⟩ := dispatch_eq_done.mp hdispatch
    rw [dispatch_of_code hq] at hdispatch
    obtain ⟨ht, hacc⟩ := dispatchOf_done hdispatch
    exact .inl ⟨q, eq_stateCode_of_stateOfCode hq, ht, hacc⟩
  · exact .inr ⟨r, ht⟩

/-- Every byte but the one at the buffer access address reads the same after a dispatch. -/
theorem sameBytesBut_afterDispatch {q : FsmState} {s : State} (rd : Option Byte) (hmem : s.mem.wf)
    (hacc : IsByteState q → CanAccess s) : SameBytesBut (bufAccess s) s (afterDispatch q rd s) := by
  intro a ha
  by_cases hq : q = .receiveByte
  · subst hq
    have hne : a ≠ s.buf + s.cur := by
      rintro rfl
      exact ha (bufAccess_of_canAccess (hacc (.inr rfl)))
    rw [afterDispatch_receiveByte_mem, memRead_memWrite_other _ hmem hne]
  · rw [afterDispatch_mem_of_ne rd s hq]

/-- Settles O40: a row that stores nothing completes its dispatch, or only FAULT changes, which only H_TX does. -/
theorem nonStoringHandlersFrame : Obligations.NonStoringHandlersFrame := by
  intro s t i hi h
  have hrow : (∃ q, i = handlerOf q ∧ q ≠ .receiveByte) ∨ i = .extReset := by
    simp only [List.mem_cons, List.not_mem_nil, or_false] at hi
    rcases hi with rfl | rfl | rfl | rfl | rfl | rfl | rfl | rfl | rfl
    · exact .inr rfl
    · exact .inl ⟨.idle, rfl, by decide⟩
    · exact .inl ⟨.start, rfl, by decide⟩
    · exact .inl ⟨.stop, rfl, by decide⟩
    · exact .inl ⟨.reset, rfl, by decide⟩
    · exact .inl ⟨.transmitByte, rfl, by decide⟩
    · exact .inl ⟨.nackReceived, rfl, by decide⟩
    · exact .inl ⟨.arbitrationLost, rfl, by decide⟩
    · exact .inl ⟨.busError, rfl, by decide⟩
  rcases hrow with ⟨q, rfl, hq⟩ | rfl
  · have hbyte : handlerOf q ≠ .hTx → ¬ IsByteState q := by
      rintro htx (rfl | rfl)
      · exact htx rfl
      · exact hq rfl
    rcases exec_handlerOf_next h with ⟨rfl, -⟩ | ⟨hb, r, rfl⟩
    · simpa [SameBytes, afterDispatch_mem_of_ne none s hq, afterDispatch_draws none s (.inl hq)] using
        fun htx => afterDispatch_cur_of_not_byte none s (hbyte htx)
    · simpa [SameBytes] using fun htx => absurd hb (hbyte htx)
  · cases (extResetFlushesAndGoesIdle s (exec_eq_next h).left).symm.trans h
    simp [SameBytes]

/-- Settles O41: H_RX completes its dispatch, or only FAULT changes. -/
theorem receiveHandlerFrame : Obligations.ReceiveHandlerFrame := by
  intro s t hmem h
  rcases exec_handlerOf_next (q := .receiveByte) h with ⟨rfl, hacc⟩ | ⟨-, r, rfl⟩
  · simpa using sameBytesBut_afterDispatch none hmem hacc
  · simp [SameBytesBut]

/-- Settles O31: with a flag no memory and no cursor is touched; without one the dispatch is that of STATE, or only FAULT
changes. -/
theorem irqFrame : Obligations.IrqFrame := by
  intro s t k l b rd hmem h
  cases hflag : k || l || b with
  | true =>
    cases (exec_irq_of_flag (exec_eq_next h).left hflag rd).symm.trans h
    simp +contextual [SameBytes, SameBytesBut]
  | false =>
    simp only [Bool.or_eq_false_iff] at hflag
    obtain ⟨⟨rfl, rfl⟩, rfl⟩ := hflag
    rcases exec_irq_next_of_no_flag h with ⟨q, hs, rfl, hacc⟩ | ⟨r, rfl⟩
    · have hcur : ¬ IsByteState q → (afterDispatch q (some rd) s.clearPend).cur = s.cur :=
        afterDispatch_cur_of_not_byte (some rd) s.clearPend
      have hbytes : q ≠ .receiveByte → SameBytes s (afterDispatch q (some rd) s.clearPend) := by
        intro hq a
        rw [afterDispatch_mem_of_ne (some rd) s.clearPend hq]
        rfl
      have hbut : SameBytesBut (bufAccess s) s (afterDispatch q (some rd) s.clearPend) :=
        sameBytesBut_afterDispatch (s := s.clearPend) (some rd) hmem hacc
      have hdraws := afterDispatch_draws (q := q) (some rd) s.clearPend (.inr nofun)
      simp only [not_or] at hcur
      simpa [hs, hdraws, hbut] using And.intro (fun htx hrx => hcur ⟨htx, hrx⟩) hbytes
    · simp [SameBytes, SameBytesBut]

end Sys2Proof.Machine

/-! ## One step -/

namespace Sys2Proof.Machine

/-! ### The step of a listed move -/

/-- On a block that runs, a step is the effect of the next move. -/
theorem step_of_running {s : State} (hrun : s.Running) : step s = runEvent (nextEvent s) (takeEvent s) :=
  whenRunning_of_clear (fun s => runEvent (nextEvent s) (takeEvent s)) hrun.left hrun.right

/-- On a block that runs, a step is the effect of the first listed move. -/
theorem step_of_inputs {s : State} {e : Event} {rest : List Event} (hrun : s.Running) (h : s.inputs = e :: rest) :
    step s = runEvent e (s.setInputs rest) := by
  rw [step_of_running hrun, nextEvent_cons h, takeEvent_cons h]

/-- A request word that its context may issue runs what it decodes to. -/
theorem runRequest_ok {ctx : Context} {w : ReqWord} {ref n : Nat} {i : Instr} (s : State)
    (hd : decodeRequest w ref n = .ok i) (hc : issuer i = ctx) : runRequest ctx w ref n s = exec i s := by
  simp [runRequest, hd, hc]

/-- A LAUNCH_B that is owed pays its debt and runs the handler of STATE. -/
theorem runLaunchB_of_state {s : State} {q : FsmState} (howed : 0 < s.launchesOwed) (hs : s.state = stateCode q) :
    runLaunchB s = exec (handlerOf q) (s.setLaunchesOwed (s.launchesOwed - 1)) := by
  simp [runLaunchB, decodeState, hs, Nat.ne_of_gt howed]

/-- Settles O8: the move is a request of its own context, so it runs. -/
theorem stepRunsTheDecodedRequest : Obligations.StepRunsTheDecodedRequest := by
  intro s ctx w ref n rest i hrun hin hd hc
  rw [step_of_inputs hrun hin]
  exact runRequest_ok (s.setInputs rest) hd hc

/-- Settles O9: the state decoder reads the handler of the state that STATE names. -/
theorem stepRunsTheHandlerOfStateAtLaunchB : Obligations.StepRunsTheHandlerOfStateAtLaunchB := by
  intro s rest i hrun hin howed hi
  obtain ⟨q, hq, rfl⟩ := Option.map_eq_some_iff.mp hi
  rw [step_of_inputs hrun hin]
  exact runLaunchB_of_state (s := s.setInputs rest) howed (eq_stateCode_of_stateOfCode hq)

/-- Settles O10: an empty list and a list of the drawn move alone give the same next move and the same state. -/
theorem stepTakesTheEnvironmentsDraw : Obligations.StepTakesTheEnvironmentsDraw := by
  intro s hrun hin
  have hdrawn : State.Running { s with inputs := [Config.environment s.draws], draws := s.draws + 1 } := hrun
  have hnext : nextEvent s = Config.environment s.draws := by
    simp [nextEvent, hin]
  have htake : takeEvent s = State.setInputs { s with draws := s.draws + 1 } [] := by
    simp [takeEvent, hin, State.nextDraw, State.setInputs]
  rw [step_of_running hrun, hnext, htake, step_of_inputs hdrawn rfl]
  rfl

/-- Settles O11: the refusal sets the mark, and the next step finds it. -/
theorem refusedRequestSetsRefusedOnly : Obligations.RefusedRequestSetsRefusedOnly := by
  intro s ctx w ref n rest r hrun hin hd
  refine ⟨?_, step_of_refused hrun.left rfl⟩
  rw [step_of_inputs hrun hin]
  simp [runEvent, runRequest, hd, State.markRefused, State.setInputs]

/-- Settles O14: the word decodes, and the comparison of the contexts refuses it. -/
theorem noContextMakesTheOthersMove : Obligations.NoContextMakesTheOthersMove := by
  intro s ctx w ref n rest i hrun hin hd hc
  rw [step_of_inputs hrun hin]
  simp [runEvent, runRequest, hd, hc]

/-- Settles O29: no code from 9 to 15 names a state. -/
theorem illegalStateFaults : Obligations.IllegalStateFaults := by
  intro s rd rest hrun hs
  refine ⟨exec_of_body_raise hrun (irqBody_of_illegal hs rd), fun hin howed => ?_⟩
  have hcode : decodeState s.state = none := by
    rw [decodeState, stateOfCode_eq_none.mpr hs]
    rfl
  rw [step_of_inputs hrun hin]
  simp [runEvent, runLaunchB, hcode, Nat.ne_of_gt howed, State.markFault, State.setInputs]

/-! ### Host access -/

/-- A host write into the buffer of an active transaction raises a fault (R56). -/
theorem step_of_hostWrite_inside {s : State} {a : Nat} {v : Byte} {rest : List Event} (hrun : s.Running)
    (hin : s.inputs = .hostWrite a v :: rest) (hactive : s.state ≠ stateCode .idle) (hbuf : s.buf ≤ a ∧ a < s.buf + s.len) :
    step s = .next { s with inputs := rest, fault := some (.bufferWriteWhileBusy s.state a) } := by
  have hinside : (isActive (s.setInputs rest) && inBuffer (s.setInputs rest) a) = true := by
    simpa using And.intro hactive hbuf
  rw [step_of_inputs hrun hin, runEvent, hostWriteBody, if_pos hinside]
  rfl

/-- Any other host write to an admitted address is made (R56). -/
theorem step_of_hostWrite_outside {s : State} {a : Nat} {v : Byte} {rest : List Event} (hrun : s.Running)
    (hin : s.inputs = .hostWrite a v :: rest) (hout : ¬ (s.state ≠ stateCode .idle ∧ s.buf ≤ a ∧ a < s.buf + s.len))
    (hadm : memAdmit s.params a = true) :
    step s = .next { s with inputs := rest, mem := memWrite s.mem a v } := by
  have hinside : ¬ (isActive (s.setInputs rest) && inBuffer (s.setInputs rest) a) = true := by
    simpa using hout
  rw [step_of_inputs hrun hin, runEvent, hostWriteBody, if_neg hinside, if_pos (by exact hadm)]
  rfl

/-- Settles O42: the two branches of a host write, and the rules of memory for the byte written. -/
theorem hostWriteOutsideTheActiveBuffer : Obligations.HostWriteOutsideTheActiveBuffer := by
  intro s a v rest hrun hin
  refine ⟨fun ⟨hactive, hbuf⟩ => step_of_hostWrite_inside hrun hin hactive hbuf, fun hmem hout hadm => ?_⟩
  exact ⟨memWrite s.mem a v, step_of_hostWrite_outside hrun hin hout hadm, memRead_memWrite_same a v hmem,
    fun b hb => memRead_memWrite_other v hmem hb⟩

/-- Settles O43: the move is taken, and the admitted read has no effect. -/
theorem hostReadsChangeNothing : Obligations.HostReadsChangeNothing := by
  intro s rest hrun
  refine ⟨fun a hin hadm => ⟨?_, if_pos hadm⟩, fun r hin => step_of_inputs hrun hin⟩
  rw [step_of_inputs hrun hin, runEvent, hostReadBody, if_pos (by exact hadm)]
  rfl

/-- Settles O56: the causes are those of O30, O15, O42 and O29, and each record has its own code. -/
theorem faultReasonsHaveTheirCodes : Obligations.FaultReasonsHaveTheirCodes := by
  intro s hrun
  refine ⟨fun rd hs => ?_, fun ref n hwf hactive => ?_, fun a v rest hin hactive hlo hhi => ?_, fun rd hs => ?_⟩
  · obtain ⟨hoverrun, hoverflow, -⟩ := byteHandlerStopsInOrder s (.irq false false false rd) rd hrun (.inl ⟨rfl, hs⟩)
    exact ⟨fun h => ⟨_, rfl, rfl, hoverrun h⟩, fun h ho => ⟨_, rfl, rfl, hoverflow h ho⟩⟩
  · obtain ⟨-, -, hbusy⟩ := setBufferStoresReferenceAndLength s ref n hrun hwf
    exact ⟨_, rfl, rfl, hbusy hactive⟩
  · exact ⟨_, rfl, rfl, step_of_hostWrite_inside hrun hin hactive ⟨hlo, hhi⟩⟩
  · exact ⟨_, rfl, rfl, exec_of_body_raise hrun (irqBody_of_illegal hs rd)⟩

/-! ### A split LAUNCH with an IRQ between its halves -/

/-- The first half of a split LAUNCH, as a step. -/
theorem step_launch_of_idle_split {s : State} {a : BitVec 7} {d : Bool} {rest : List Event} (hrun : s.Running)
    (hin : s.inputs = .request .foreground (launchWord a d) 0 0 :: rest) (hidle : s.state = stateCode .idle)
    (hsplit : s.params.atomicLaunch = false) :
    step s = .next ((launchSetup a d (s.setInputs rest)).setLaunchesOwed (s.launchesOwed + 1)) := by
  have hrest : (s.setInputs rest).Running := hrun
  rw [step_of_inputs hrun hin]
  exact (runRequest_ok _ (decodeRequest_launchWord a d 0 0) rfl).trans
    (exec_of_body_done hrest (launchBody_of_idle_split a d hidle hsplit))

/-- An IRQ without a flag in a state whose handler accesses no buffer, as a step. -/
theorem step_irq_of_not_byte {s : State} {q : FsmState} {rd : Byte} {rest : List Event} (hrun : s.Running)
    (hin : s.inputs = .request .interrupt (irqWord false false false rd) 0 0 :: rest) (hs : s.state = stateCode q)
    (hq : ¬ IsByteState q) : step s = .next (afterDispatch q (some rd) (s.setInputs rest).clearPend) := by
  have hrest : (s.setInputs rest).Running := hrun
  rw [step_of_inputs hrun hin]
  exact (runRequest_ok _ (decodeRequest_irqWord false false false rd 0 0) rfl).trans (exec_irq_of_not_byte hrest hs hq rd)

/-- An owed LAUNCH_B where the buffer can be accessed, as a step. -/
theorem step_launchB_of_canAccess {s : State} {q : FsmState} {rest : List Event} (hrun : s.Running)
    (hin : s.inputs = .launchB :: rest) (howed : 0 < s.launchesOwed) (hs : s.state = stateCode q) (hacc : CanAccess s) :
    step s = .next (afterDispatch q none ((s.setInputs rest).setLaunchesOwed (s.launchesOwed - 1))) := by
  have hrest : ((s.setInputs rest).setLaunchesOwed (s.launchesOwed - 1)).Running := hrun
  have haccrest : CanAccess ((s.setInputs rest).setLaunchesOwed (s.launchesOwed - 1)) := hacc
  rw [step_of_inputs hrun hin]
  exact (runLaunchB_of_state (s := s.setInputs rest) howed hs).trans (exec_handlerOf_of_canAccess q hrest haccrest)

/-- Settles O21: LAUNCH_A, then H_START in the IRQ, then H_TX in LAUNCH_B, each on the state the one before leaves. -/
theorem interleavedLaunchSendsAByteEarly : Obligations.InterleavedLaunchSendsAByteEarly := by
  intro s a rd w rest hrun hsplit hidle hcur hadm hw hin
  obtain rfl : w = launchWord a false := by
    simpa [encode, eq_comm] using hw
  have h1 := step_launch_of_idle_split hrun hin hidle hsplit
  set s1 := (launchSetup a false (s.setInputs _)).setLaunchesOwed (s.launchesOwed + 1)
  have h2 : step s1 = _ := step_irq_of_not_byte (q := .start) hrun rfl rfl (by decide)
  set s2 := afterDispatch .start (some rd) (s1.setInputs _).clearPend
  have hs2 : s2.state = stateCode .transmitByte := by
    have hdir : (sadOf a false).getLsbD 0 = false := sadIsRead_sadOf a false
    exact if_pos hdir
  have h3 : step s2 = _ := step_launchB_of_canAccess hrun rfl (Nat.succ_pos _) hs2 ⟨hcur, hadm⟩
  refine ⟨s1, s2, _, h1, h2, h3, rfl, rfl, hs2, rfl, ?_, rfl, ?_, rfl⟩
  · exact List.append_assoc s.ct _ _
  · exact List.append_assoc s.ht _ _

/-! ### Reset -/

/-- Settles O44: field by field. -/
theorem resetZeroesTheRegisters : Obligations.ResetZeroesTheRegisters := by
  intro p
  exact ⟨rfl, rfl, rfl, rfl, rfl, rfl, rfl, rfl, rfl, rfl, rfl, rfl⟩

/-- Settles O45: zero registers, no listed byte, STATE Idle, no debt, PEND clear. -/
theorem resetMeetsTheInvariants : Obligations.ResetMeetsTheInvariants := by
  intro p hp
  have hbuf : 0 < 2 ^ p.bufAddrBits := Nat.two_pow_pos _
  have hlen : 0 < 2 ^ p.lenBits := Nat.two_pow_pos _
  have hregs : (State.resetWith p).RegsWf := ⟨hp, hbuf, hlen, Nat.le_refl 0, Nat.zero_le 8, fun _ => rfl⟩
  exact ⟨⟨hregs, Memory.wf_nil, nofun⟩, .inl rfl, fun _ => rfl, fun _ => rfl, fun h => absurd rfl h⟩

end Sys2Proof.Machine

/-! ## All a step can do, and the invariants

A step that gives a next state did one of eight things to the state with the move taken (`Moved`). Each invariant of the
machine is one case analysis over them; the dispatches share the lemmas about `afterDispatch`. -/

namespace Sys2Proof.Machine

/-! ### Where a dispatch starts -/

/-- The move `e` dispatches from `b`, which it makes of the state `u` with the move taken; `rd` is the byte of an IRQ. -/
inductive DispatchFrom (e : Event) (u : State) : Option Byte → State → Prop where
  /-- LAUNCH from idle with ATOMIC_LAUNCH (R141). -/
  | launch (a : BitVec 7) (d : Bool) (hidle : u.state = stateCode .idle) (hatomic : u.params.atomicLaunch = true) :
      DispatchFrom e u none (launchSetup a d u)
  /-- IRQ (R131). -/
  | irq (k l b : Bool) (rd : Byte) (he : deliversIrq e = true) : DispatchFrom e u (some rd) (override k l b u.clearPend)
  /-- EXT_RESET (R150). -/
  | extReset (ctx : Context) (w : ReqWord) (ref n : Nat) (he : e = .request ctx w ref n)
      (hd : decodeRequest w ref n = .ok .extReset) : DispatchFrom e u none (u.setState .reset)
  /-- LAUNCH_B (R144). -/
  | launchB (he : e = .launchB) (howed : 0 < u.launchesOwed) :
      DispatchFrom e u none (u.setLaunchesOwed (u.launchesOwed - 1))

/-- What the move `e` that gives the next state `t` did to the state `u` with the move taken. -/
inductive Moved (e : Event) (u t : State) : Prop where
  | nothing (he : deliversIrq e = false) (ht : t = u)
  | refused (r : RefusalReason) (ht : t = u.markRefused r)
  | faulted (r : FaultRecord) (ht : t = u.markFault r)
  /-- The byte handler of a LAUNCH_B raised a fault; the debt is paid all the same (log 12). -/
  | launchBFaulted (r : FaultRecord) (q : FsmState) (hq : IsByteState q) (hs : u.state = stateCode q)
      (ht : t = (u.setLaunchesOwed (u.launchesOwed - 1)).markFault r)
  | bufferAssigned (ref n : Nat) (hidle : u.state = stateCode .idle)
      (ht : t = u.assignBuffer (portRef u.params ref) (portN u.params n))
  | launchedA (a : BitVec 7) (d : Bool) (hidle : u.state = stateCode .idle) (hsplit : u.params.atomicLaunch = false)
      (ht : t = (launchSetup a d u).setLaunchesOwed (u.launchesOwed + 1))
  | dispatched (rd : Option Byte) (b : State) (q : FsmState) (hfrom : DispatchFrom e u rd b) (hs : b.state = stateCode q)
      (hacc : IsByteState q → CanAccess b) (ht : t = afterDispatch q rd b)
  | hostWrote (a : Nat) (v : Byte) (he : deliversIrq e = false) (hadm : memAdmit u.params a = true)
      (ht : t = u.setMem (memWrite u.mem a v))

section
variable {e : Event} {u t : State}

/-- A dispatch that completes ran the handler of STATE. -/
theorem Moved.of_dispatch {rd : Option Byte} {b : State} (hfrom : DispatchFrom e u rd b) (h : dispatch rd b = .done t) :
    Moved e u t := by
  obtain ⟨q, hq, -⟩ := dispatch_eq_done.mp h
  rw [dispatch_of_code hq] at h
  obtain ⟨ht, hacc⟩ := dispatchOf_done h
  exact .dispatched rd b q hfrom (eq_stateCode_of_stateOfCode hq) hacc ht

theorem Moved.of_setBuffer {ref n : Nat} (h : exec (.setBuffer ref n) u = .next t) : Moved e u t := by
  obtain ⟨-, hdone | ⟨r, -, ht⟩⟩ := exec_eq_next h
  · by_cases hidle : u.state = stateCode .idle
    · cases (setBufferBody_of_idle ref n hidle).symm.trans hdone
      exact .bufferAssigned ref n hidle rfl
    · cases (setBufferBody_of_active ref n hidle).symm.trans hdone
  · exact .faulted r ht

theorem Moved.of_launch {a : BitVec 7} {d : Bool} (he : deliversIrq e = false) (h : exec (.launch a d) u = .next t) :
    Moved e u t := by
  obtain ⟨-, hdone | ⟨r, -, ht⟩⟩ := exec_eq_next h
  · by_cases hidle : u.state = stateCode .idle
    · cases hatomic : u.params.atomicLaunch with
      | true =>
        cases (launchBody_of_idle_atomic a d hidle hatomic).symm.trans hdone
        exact .dispatched none _ .start (.launch a d hidle hatomic) rfl (fun hb => absurd hb (by decide)) rfl
      | false =>
        cases (launchBody_of_idle_split a d hidle hatomic).symm.trans hdone
        exact .launchedA a d hidle hatomic rfl
    · cases (launchBody_of_active a d hidle).symm.trans hdone
      exact .nothing he rfl
  · exact .faulted r ht

theorem Moved.of_irq {k l b : Bool} {rd : Byte} (he : deliversIrq e = true) (h : exec (.irq k l b rd) u = .next t) :
    Moved e u t := by
  obtain ⟨-, hdone | ⟨r, -, ht⟩⟩ := exec_eq_next h
  · exact .of_dispatch (.irq k l b rd he) hdone
  · exact .faulted r ht

theorem Moved.of_extReset {ctx : Context} {w : ReqWord} {ref n : Nat} (he : e = .request ctx w ref n)
    (hd : decodeRequest w ref n = .ok .extReset) (h : exec .extReset u = .next t) : Moved e u t := by
  obtain ⟨-, hdone | ⟨r, -, ht⟩⟩ := exec_eq_next h
  · exact .of_dispatch (.extReset ctx w ref n he hd) hdone
  · exact .faulted r ht

theorem Moved.of_launchB {q : FsmState} (he : e = .launchB) (howed : 0 < u.launchesOwed) (hs : u.state = stateCode q)
    (h : exec (handlerOf q) (u.setLaunchesOwed (u.launchesOwed - 1)) = .next t) : Moved e u t := by
  rcases exec_handlerOf_next h with ⟨ht, hacc⟩ | ⟨hq, r, ht⟩
  · exact .dispatched none _ q (.launchB he howed) hs hacc ht
  · exact .launchBFaulted r q hq hs ht

/-- A move delivers an IRQ exactly when it is an IRQ request of the interrupt mechanism. -/
theorem deliversIrq_request {w : ReqWord} {ref n : Nat} {i : Instr} (hd : decodeRequest w ref n = .ok i) :
    deliversIrq (.request (issuer i) w ref n) = true ↔ ∃ k l b rd, i = .irq k l b rd := by
  rcases decodeRequest_ok hd with rfl | ⟨a, d, rfl⟩ | ⟨k, l, b, rd, rfl⟩ | rfl <;> simp [deliversIrq, issuer, hd]

/-- All a move that gives a next state can have done. -/
theorem moved_of_runEvent (h : runEvent e u = .next t) : Moved e u t := by
  rcases runEvent_cases h with ⟨ht, he⟩ | ⟨r, ht⟩ | ⟨ctx, w, ref, n, i, rfl, hd, rfl, hx⟩ |
    ⟨he, howed, q, hq, hx⟩ | ⟨-, -, -, ht⟩ | ⟨a, v, -, -, -, ht⟩ | ⟨a, v, rfl, -, hadm, ht⟩
  · exact .nothing he ht
  · exact .refused r ht
  · have hirq := deliversIrq_request hd
    rcases decodeRequest_ok hd with rfl | ⟨a, d, rfl⟩ | ⟨k, l, b, rd, rfl⟩ | rfl
    · exact .of_setBuffer hx
    · exact .of_launch rfl hx
    · exact .of_irq (hirq.mpr ⟨k, l, b, rd, rfl⟩) hx
    · exact .of_extReset rfl hd hx
  · exact .of_launchB he howed (eq_stateCode_of_stateOfCode hq) hx
  · exact .faulted _ ht
  · exact .faulted _ ht
  · exact .hostWrote a v rfl hadm ht

end

/-- All a step that gives a next state can have done. -/
theorem moved_of_step {s t : State} (h : step s = .next t) : Moved (nextEvent s) (takeEvent s) t :=
  moved_of_runEvent (step_eq_next.mp h).right.right

/-! ### What a dispatch starts from -/

section
variable {e : Event} {u b : State} {rd : Option Byte}

/-- Nothing is written to BUF, LEN, CUR, memory, the traces or the parameters before a dispatch. -/
theorem DispatchFrom.keeps (h : DispatchFrom e u rd b) :
    b.buf = u.buf ∧ b.len = u.len ∧ b.cur = u.cur ∧ b.mem = u.mem ∧ b.ct = u.ct ∧ b.ht = u.ht ∧
      b.params = u.params := by
  cases h <;> simp [launchSetup]

/-- Only a LAUNCH from idle writes SAD. -/
theorem DispatchFrom.sad_of_active (h : DispatchFrom e u rd b) (hactive : u.state ≠ stateCode .idle) : b.sad = u.sad := by
  cases h with
  | launch a d hidle _ => exact absurd hidle hactive
  | irq k l b rd _ => simp
  | extReset => rfl
  | launchB => rfl

/-- STATE is Idle at a dispatch only if it was before. -/
theorem DispatchFrom.idle (h : DispatchFrom e u rd b) (hb : b.state = stateCode .idle) : u.state = stateCode .idle := by
  cases h with
  | launch a d hidle _ => exact hidle
  | irq k l b rd _ =>
    cases hflag : k || l || b with
    | true =>
      rw [override_state_of_flag hflag, stateCode_inj] at hb
      exact absurd hb (forcedState_ne_idle l b)
    | false =>
      rw [override_of_no_flag hflag] at hb
      exact hb
  | extReset =>
    rw [State.setState_state, stateCode_inj] at hb
    cases hb
  | launchB => exact hb

/-- LAUNCH's set-up keeps a state well formed: it clears LASTERR only where the register is present. -/
theorem launchSetup_wf (a : BitVec 7) (d : Bool) (hu : u.Wf) : (launchSetup a d u).Wf := by
  obtain ⟨⟨hp, hbuf, hlen, hcur, -, herr⟩, hmem⟩ := hu
  exact ⟨⟨hp, hbuf, hlen, hcur, stateCode_toNat_le .start, by simpa +contextual [launchSetup] using herr⟩, hmem⟩

/-- STATE and LASTERR stay well formed on the way to a dispatch. -/
theorem DispatchFrom.wf (h : DispatchFrom e u rd b) (hu : u.Wf) : b.Wf := by
  have ⟨⟨hp, hbuf, hlen, hcur, hstate, herr⟩, hmem⟩ := hu
  cases h with
  | launch a d => exact launchSetup_wf a d hu
  | irq k l b rd =>
    cases hflag : k || l || b with
    | true =>
      rw [override_of_flag hflag]
      exact ⟨⟨hp, hbuf, hlen, hcur, stateCode_toNat_le _, by simpa +contextual [forceError_true] using herr⟩, hmem⟩
    | false =>
      rw [override_of_no_flag hflag]
      exact hu
  | extReset => exact ⟨⟨hp, hbuf, hlen, hcur, stateCode_toNat_le .reset, herr⟩, hmem⟩
  | launchB => exact hu

end

/-! ### Well-formed states -/

theorem takeEvent_wf {s : State} (h : s.Wf) : (takeEvent s).Wf := by
  simpa [State.Wf, State.RegsWf, State.MemWf] using h

/-- A write to an admitted address keeps memory well formed. -/
theorem memWf_memWrite {s : State} {a : Nat} (v : Byte) (h : s.MemWf) (ha : memAdmit s.params a = true) :
    (s.setMem (memWrite s.mem a v)).MemWf :=
  ⟨memWrite_wf a v h.left, memWrite_addresses v (p := fun x => memAdmit s.params x = true) h.right ha⟩

/-- A dispatch keeps memory well formed: H_RX stores at an admitted address. -/
theorem afterDispatch_memWf {q : FsmState} (rd : Option Byte) {b : State} (h : b.MemWf) (hacc : IsByteState q → CanAccess b) :
    (afterDispatch q rd b).MemWf := by
  by_cases hq : q = .receiveByte
  · subst hq
    have hstored := memWf_memWrite (periphByte rd b).1 h (hacc (.inr rfl)).right
    simpa [State.MemWf, afterDispatch_receiveByte_mem] using hstored
  · simpa [State.MemWf, afterDispatch_mem_of_ne rd b hq] using h

/-- A byte handler runs with CUR < LEN, so its new cursor does not pass LEN (R37). -/
theorem afterDispatch_cur_le_len {q : FsmState} (rd : Option Byte) {b : State} (h : b.cur ≤ b.len)
    (hacc : IsByteState q → CanAccess b) : (afterDispatch q rd b).cur ≤ b.len := by
  by_cases hq : IsByteState q
  · rw [afterDispatch_cur_of_byte rd b hq]
    exact (hacc hq).left
  · rw [afterDispatch_cur_of_not_byte rd b hq]
    exact h

theorem afterDispatch_wf {q : FsmState} (rd : Option Byte) {b : State} (h : b.Wf) (hacc : IsByteState q → CanAccess b) :
    (afterDispatch q rd b).Wf := by
  obtain ⟨⟨hp, hbuf, hlen, hcur, -, herr⟩, hmem⟩ := h
  refine ⟨?_, afterDispatch_memWf rd hmem hacc⟩
  rw [State.RegsWf, afterDispatch_state, afterDispatch_params, afterDispatch_buf, afterDispatch_len, afterDispatch_lastErr]
  exact ⟨hp, hbuf, hlen, afterDispatch_cur_le_len rd hcur hacc, stateCode_toNat_le _, herr⟩

/-- Settles O46: every way a step can go keeps the registers in their widths and memory canonical. -/
theorem stepKeepsTheStateWellFormed : Obligations.StepKeepsTheStateWellFormed := by
  intro s t hs h
  have hu := takeEvent_wf hs
  have ⟨⟨hp, hbuf, hlen, hcur, hstate, herr⟩, hmem⟩ := hu
  cases moved_of_step h with
  | nothing _ ht => exact ht ▸ hu
  | refused r ht => exact ht ▸ hu
  | faulted r ht => exact ht ▸ hu
  | launchBFaulted r q _ _ ht => exact ht ▸ hu
  | bufferAssigned ref n _ ht =>
    rw [ht]
    exact ⟨⟨hp, Nat.mod_lt _ (Nat.two_pow_pos _), Nat.mod_lt _ (Nat.two_pow_pos _), Nat.zero_le _, hstate, herr⟩, hmem⟩
  | launchedA a d _ _ ht =>
    rw [ht]
    exact launchSetup_wf a d hu
  | dispatched rd b q hfrom _ hacc ht =>
    rw [ht]
    exact afterDispatch_wf rd (hfrom.wf hu) hacc
  | hostWrote a v _ hadm ht =>
    rw [ht]
    exact ⟨⟨hp, hbuf, hlen, hcur, hstate, herr⟩, memWf_memWrite v hmem hadm⟩

end Sys2Proof.Machine

/-! ## The invariants of STATE and PEND, and what a step leaves alone -/

namespace Sys2Proof.Machine

/-! ### Settled states (R38) -/

/-- A dispatch ends in a settled state. -/
theorem afterDispatch_settled (q : FsmState) (rd : Option Byte) (b : State) : (afterDispatch q rd b).Settled := by
  rw [State.Settled, afterDispatch_state]
  rcases nextState_cases (q := q) b with h | h | h | h <;> simp [h]

/-- Only a LAUNCH_B changes the count before a dispatch, and it makes it smaller. -/
theorem DispatchFrom.launchesOwed_le {e : Event} {u b : State} {rd : Option Byte} (h : DispatchFrom e u rd b) :
    b.launchesOwed ≤ u.launchesOwed := by
  cases h <;> simp [launchSetup]

theorem DispatchFrom.atomicOwesNone {e : Event} {u b : State} {rd : Option Byte} (h : DispatchFrom e u rd b)
    (hu : u.AtomicOwesNone) : b.AtomicOwesNone := by
  obtain ⟨-, -, -, -, -, -, hp⟩ := h.keeps
  intro hatomic
  exact Nat.eq_zero_of_le_zero (h.launchesOwed_le.trans (hu (hp ▸ hatomic)).le)

/-- Settles O47: a dispatch ends settled, LAUNCH_A owes the LAUNCH_B that Start needs, and every other move leaves STATE alone. -/
theorem stepKeepsStateSettled : Obligations.StepKeepsStateSettled := by
  intro s t hs ho h
  have hu : (takeEvent s).Settled := by simpa [State.Settled] using hs
  have huo : (takeEvent s).AtomicOwesNone := by simpa [State.AtomicOwesNone] using ho
  cases moved_of_step h with
  | nothing _ ht => exact ht ▸ ⟨hu, huo⟩
  | refused r ht => exact ht ▸ ⟨hu, huo⟩
  | faulted r ht => exact ht ▸ ⟨hu, huo⟩
  | launchBFaulted r q hq hst ht =>
    subst ht
    constructor
    · rcases hq with rfl | rfl
      · exact .inr (.inl hst)
      · exact .inr (.inr (.inl hst))
    · exact fun hatomic => Nat.sub_eq_zero_of_le ((huo hatomic).le.trans (Nat.zero_le 1))
  | bufferAssigned ref n _ ht => exact ht ▸ ⟨hu, huo⟩
  | launchedA a d _ hsplit ht =>
    subst ht
    refine ⟨.inr (.inr (.inr (.inr ⟨rfl, Nat.succ_pos _⟩))), fun hatomic => ?_⟩
    exact absurd (hsplit.symm.trans hatomic) (by decide)
  | dispatched rd b q hfrom _ _ ht =>
    subst ht
    refine ⟨afterDispatch_settled q rd b, ?_⟩
    simpa [State.AtomicOwesNone] using hfrom.atomicOwesNone huo
  | hostWrote a v _ _ ht => exact ht ▸ ⟨hu, huo⟩

/-! ### PEND (R179, R180) -/

/-- An idle block dispatches with PEND clear: an IRQ clears it, and the other moves find it clear or leave Idle. -/
theorem DispatchFrom.idleOwesNone {e : Event} {u b : State} {rd : Option Byte} (h : DispatchFrom e u rd b)
    (hu : u.IdleOwesNone) : b.IdleOwesNone := by
  intro hb
  cases h with
  | launch a d => cases stateCode_injective (q := .start) (r := .idle) hb
  | irq k l b rd => simp
  | extReset => cases stateCode_injective (q := .reset) (r := .idle) hb
  | launchB => exact hu hb

/-- Settles O48: a dispatch that ends idle has cleared PEND, and every other move leaves STATE Idle and PEND as they are. -/
theorem idleBlockIsOwedNoInterrupt : Obligations.IdleBlockIsOwedNoInterrupt := by
  intro s hs
  constructor
  · intro t h
    have hu : (takeEvent s).IdleOwesNone := by simpa [State.IdleOwesNone] using hs
    cases moved_of_step h with
    | nothing _ ht => exact ht ▸ hu
    | refused r ht => exact ht ▸ hu
    | faulted r ht => exact ht ▸ hu
    | launchBFaulted r q _ _ ht => exact ht ▸ hu
    | bufferAssigned ref n _ ht => exact ht ▸ hu
    | launchedA a d _ _ ht =>
      subst ht
      intro hidle
      cases stateCode_injective (q := .start) (r := .idle) hidle
    | dispatched rd b q hfrom hb _ ht =>
      subst ht
      intro hidle
      rw [afterDispatch_state, stateCode_inj] at hidle
      exact afterDispatch_pend_of_idle rd b hidle fun hq => hfrom.idleOwesNone hu (hq ▸ hb)
    | hostWrote a v _ _ ht => exact ht ▸ hu
  · intro hperiph hidle
    by_contra hirq
    have hpend := hperiph (Bool.eq_true_of_not_eq_false hirq)
    exact absurd (hpend.symm.trans (hs hidle)) (by decide)

/-- Settles O49: a dispatch that does not end idle has sent an address or a data command. -/
theorem activeTransactionIsOwedAnInterrupt : Obligations.ActiveTransactionIsOwedAnInterrupt := by
  intro s t hatomic _ _ hs h
  have hu : (takeEvent s).ActiveOwesOne := by simpa [State.ActiveOwesOne] using hs
  cases moved_of_step h with
  | nothing _ ht => exact ht ▸ hu
  | refused r ht => exact ht ▸ hu
  | faulted r ht => exact ht ▸ hu
  | launchBFaulted r q _ _ ht => exact ht ▸ hu
  | bufferAssigned ref n _ ht => exact ht ▸ hu
  | launchedA a d _ hsplit ht =>
    rw [takeEvent_params] at hsplit
    exact absurd (hsplit.symm.trans hatomic) (by decide)
  | dispatched rd b q _ _ _ ht =>
    subst ht
    intro hactive
    rw [afterDispatch_state, ne_eq, stateCode_inj] at hactive
    exact afterDispatch_pend_of_active rd b hactive
  | hostWrote a v _ _ ht => exact ht ▸ hu

/-! ### What a step leaves alone (R36) -/

/-- Settles O50: SAD is written by a LAUNCH from idle only, BUF and LEN by SET_BUFFER while idle only. -/
theorem activeTransactionKeepsItsBuffer : Obligations.ActiveTransactionKeepsItsBuffer := by
  intro s t h
  cases moved_of_step h with
  | nothing _ ht => simp [ht]
  | refused r ht => simp [ht]
  | faulted r ht => simp [ht]
  | launchBFaulted r q _ _ ht => simp [ht]
  | bufferAssigned ref n hidle ht =>
    rw [takeEvent_state] at hidle
    simp [ht, hidle]
  | launchedA a d hidle _ ht =>
    rw [takeEvent_state] at hidle
    simp [ht, hidle, launchSetup]
  | dispatched rd b q hfrom _ _ ht =>
    obtain ⟨hbuf, hlen, -, -, -, -, hp⟩ := hfrom.keeps
    have hsad := hfrom.sad_of_active
    rw [takeEvent_state, takeEvent_sad] at hsad
    simpa [ht, hbuf, hlen, hp] using hsad
  | hostWrote a v _ _ ht => simp [ht]

/-! ### The traces (R34, R35) -/

/-- Settles O51: only a dispatch appends to the traces. -/
theorem tracesOnlyGrow : Obligations.TracesOnlyGrow := by
  intro s t h
  have hsame : t.ht = s.ht → t.ct = s.ct →
      ∃ (hs : List StCode) (cs : List Cmd), t.ht = s.ht ++ hs ∧ hs.length ≤ 1 ∧ t.ct = s.ct ++ cs ∧ cs.length ≤ 2 :=
    fun hh hc => ⟨[], [], by simp [hh], by simp, by simp [hc], by simp⟩
  cases moved_of_step h with
  | nothing _ ht => exact hsame (by simp [ht]) (by simp [ht])
  | refused r ht => exact hsame (by simp [ht]) (by simp [ht])
  | faulted r ht => exact hsame (by simp [ht]) (by simp [ht])
  | launchBFaulted r q _ _ ht => exact hsame (by simp [ht]) (by simp [ht])
  | bufferAssigned ref n _ ht => exact hsame (by simp [ht]) (by simp [ht])
  | launchedA a d _ _ ht => exact hsame (by simp [ht, launchSetup]) (by simp [ht, launchSetup])
  | dispatched rd b q hfrom _ _ ht =>
    obtain ⟨-, -, -, -, hct, hht, -⟩ := hfrom.keeps
    obtain ⟨cs, hcs, hlen⟩ := afterDispatch_ct (q := q) rd b
    exact ⟨[stateCode q], cs, by simp [ht, hht], by simp, by simp [ht, hcs, hct], hlen⟩
  | hostWrote a v _ _ ht => exact hsame (by simp [ht]) (by simp [ht])

/-! ### How a transaction ends (R153) -/

/-- A step from an active state either leaves STATE as it is, or is a dispatch that is no LAUNCH's. -/
theorem active_step_cases {s t : State} (hactive : s.state ≠ stateCode .idle) (h : step s = .next t) :
    t.state = s.state ∨ ∃ rd b q, DispatchFrom (nextEvent s) (takeEvent s) rd b ∧ b.state = stateCode q ∧ q ≠ .idle ∧
      t = afterDispatch q rd b := by
  have hu : (takeEvent s).state ≠ stateCode .idle := by simpa using hactive
  cases moved_of_step h with
  | nothing _ ht => exact .inl (by simp [ht])
  | refused r ht => exact .inl (by simp [ht])
  | faulted r ht => exact .inl (by simp [ht])
  | launchBFaulted r q _ _ ht => exact .inl (by simp [ht])
  | bufferAssigned ref n hidle ht => exact absurd hidle hu
  | launchedA a d hidle _ ht => exact absurd hidle hu
  | dispatched rd b q hfrom hb _ ht => exact .inr ⟨rd, b, q, hfrom, hb, fun hq => hu (hfrom.idle (hq ▸ hb)), ht⟩
  | hostWrote a v _ _ ht => exact .inl (by simp [ht])

/-- A LAUNCH while a transaction is active only takes its move. -/
theorem step_launch_of_active {s t : State} {w : ReqWord} {ref n : Nat} {a : BitVec 7} {d : Bool}
    (hactive : s.state ≠ stateCode .idle) (he : nextEvent s = .request .foreground w ref n)
    (hd : decodeRequest w ref n = .ok (.launch a d)) (h : step s = .next t) : t = takeEvent s := by
  obtain ⟨hf, hr, hrun⟩ := step_eq_next.mp h
  have hu : (takeEvent s).Running := by simpa [State.Running] using And.intro hf hr
  have huactive : (takeEvent s).state ≠ stateCode .idle := by simpa using hactive
  have hnop : runRequest .foreground w ref n (takeEvent s) = .next (takeEvent s) :=
    (runRequest_ok (takeEvent s) hd rfl).trans (launchWhileActiveChangesNothing _ a d hu huactive)
  rw [he, runEvent, hnop] at hrun
  exact (Host.Outcome.next.inj hrun).symm

/-- Settles O52: a step from an active state that changes STATE is a dispatch, and one that ends idle ran a handler that returns
Idle, other than H_IDLE. -/
theorem transactionEndsOnlyByStopOrReset : Obligations.TransactionEndsOnlyByStopOrReset := by
  intro s t hactive h
  refine ⟨fun hidle => ?_, fun hirq hlaunchB hreset => ?_, fun w ref n a d he hd => step_launch_of_active hactive he hd h⟩
  · rcases active_step_cases hactive h with hsame | ⟨rd, b, q, hfrom, -, hq, rfl⟩
    · exact absurd (hsame.symm.trans hidle) hactive
    · rw [afterDispatch_state, stateCode_inj, nextState_eq_idle] at hidle
      obtain ⟨-, -, -, -, -, hht, -⟩ := hfrom.keeps
      exact ⟨q, by cases q <;> simp_all, by simp [hht]⟩
  · rcases active_step_cases hactive h with hsame | ⟨rd, b, q, hfrom, -, -, -⟩
    · exact hsame
    · cases hfrom with
      | launch a d hidle =>
        rw [takeEvent_state] at hidle
        exact absurd hidle hactive
      | irq k l b rd he => exact absurd (he.symm.trans hirq) (by decide)
      | extReset ctx w ref n he hd => exact absurd hd (hreset ctx w ref n he)
      | launchB he => exact absurd he hlaunchB

/-! ### A stale cursor -/

/-- The byte state of a direction. -/
def byteStateOf (read : Bool) : FsmState := if read then .receiveByte else .transmitByte

theorem isByteState_byteStateOf (d : Bool) : IsByteState (byteStateOf d) := by
  cases d <;> decide

/-- The state after a LAUNCH from idle with ATOMIC_LAUNCH. -/
abbrev launched (a : BitVec 7) (d : Bool) (s : State) : State := afterDispatch .start none (launchSetup a d s)

theorem exec_launch_of_idle_atomic {s : State} (a : BitVec 7) (d : Bool) (hrun : s.Running)
    (hatomic : s.params.atomicLaunch = true) (hidle : s.state = stateCode .idle) :
    exec (.launch a d) s = .next (launched a d s) :=
  exec_of_body_done hrun (launchBody_of_idle_atomic a d hidle hatomic)

theorem launched_state (a : BitVec 7) (d : Bool) (s : State) : (launched a d s).state = stateCode (byteStateOf d) := by
  rw [launched, afterDispatch_start_launchSetup]
  exact (apply_ite stateCode (d = true) _ _).symm

/-- Settles O54: H_START leaves the cursor where it is, so the first byte handler overruns; a NACK runs no byte handler. -/
theorem staleCursorFaultsAtTheFirstByte : Obligations.StaleCursorFaultsAtTheFirstByte := by
  intro s a d rd hrun hatomic hidle hstale
  have hlaunched : (launched a d s).Running := hrun
  have hbyte : (launched a d s).state = stateCode .transmitByte ∨ (launched a d s).state = stateCode .receiveByte := by
    rw [launched_state]
    cases d with
    | false => exact .inl rfl
    | true => exact .inr rfl
  obtain ⟨hoverrun, -⟩ :=
    byteHandlerStopsInOrder (launched a d s) (.irq false false false rd) rd hlaunched (.inl ⟨rfl, hbyte⟩)
  exact ⟨launched a d s, exec_launch_of_idle_atomic a d hrun hatomic hidle, hoverrun hstale.ge, _,
    exec_irq_of_flag hlaunched (k := true) (l := false) (b := false) rfl rd, hrun.left, rfl⟩

end Sys2Proof.Machine

/-! ## A whole transaction (R152)

The IRQs that carry the bytes are one recursion over the list of their RDs; each fact about the state after them is an
induction over that list. -/

namespace Sys2Proof.Machine

/-! ### The IRQs that carry the bytes -/

/-- The state after a clean IRQ of a transfer: the byte handler of direction `d` ran with RD = `rd`. -/
abbrev afterByte (d : Bool) (rd : Byte) (s : State) : State := afterDispatch (byteStateOf d) (some rd) s.clearPend

/-- The state after one clean IRQ for each byte of the list. -/
def afterBytes (d : Bool) (rds : List Byte) (s : State) : State :=
  match rds with
  | [] => s
  | rd :: rest => afterBytes d rest (afterByte d rd s)

/-- Between the IRQs of a transfer STATE is the byte state while bytes are left, and then Stop (R107, R109). -/
abbrev InTransfer (d : Bool) (s : State) : Prop :=
  s.state = if s.cur ≥ s.len then stateCode .stop else stateCode (byteStateOf d)

theorem afterByte_cur (d : Bool) (rd : Byte) (s : State) : (afterByte d rd s).cur = s.cur + 1 :=
  afterDispatch_cur_of_byte (some rd) s.clearPend (isByteState_byteStateOf d)

theorem afterByte_inTransfer (d : Bool) (rd : Byte) (s : State) : InTransfer d (afterByte d rd s) := by
  cases d <;> rfl

section
variable (d : Bool) (rds : List Byte) (s : State)

theorem afterBytes_buf : (afterBytes d rds s).buf = s.buf := by
  induction rds generalizing s with
  | nil => rfl
  | cons rd rest ih => simp [afterBytes, ih]

theorem afterBytes_len : (afterBytes d rds s).len = s.len := by
  induction rds generalizing s with
  | nil => rfl
  | cons rd rest ih => simp [afterBytes, ih]

theorem afterBytes_running (h : s.Running) : (afterBytes d rds s).Running := by
  induction rds generalizing s with
  | nil => exact h
  | cons rd rest ih => exact ih _ (by simpa [State.Running] using h)

theorem afterBytes_cur : (afterBytes d rds s).cur = s.cur + rds.length := by
  induction rds generalizing s with
  | nil => rfl
  | cons rd rest ih =>
    rw [afterBytes, ih, afterByte_cur, List.length_cons]
    omega

theorem afterBytes_ht : (afterBytes d rds s).ht = s.ht ++ List.replicate rds.length (stateCode (byteStateOf d)) := by
  induction rds generalizing s with
  | nil => simp [afterBytes]
  | cons rd rest ih => simp [afterBytes, ih, List.replicate_succ]

theorem afterBytes_inTransfer (h : InTransfer d s) : InTransfer d (afterBytes d rds s) := by
  induction rds generalizing s with
  | nil => exact h
  | cons rd rest ih => exact ih _ (afterByte_inTransfer d rd s)

end

/-- A clean IRQ of a transfer with a byte left at an admitted address. -/
theorem exec_irq_of_inTransfer {d : Bool} {s : State} (hrun : s.Running) (hst : InTransfer d s) (hacc : CanAccess s)
    (rd : Byte) : exec (.irq false false false rd) s = .next (afterByte d rd s) :=
  exec_irq_of_canAccess hrun (hst.trans (if_neg (Nat.not_le.mpr hacc.left))) hacc rd

/-- As many clean IRQs as bytes are left run the byte handler each. -/
theorem cleanIrqs_bytes {d : Bool} (rds rest : List Byte) {s : State} (hrun : s.Running) (hst : InTransfer d s)
    (hlen : s.cur + rds.length ≤ s.len)
    (hadm : ∀ j, j < rds.length → memAdmit s.params (s.buf + (s.cur + j)) = true) :
    cleanIrqs (rds ++ rest) s = cleanIrqs rest (afterBytes d rds s) := by
  induction rds generalizing s with
  | nil => rfl
  | cons rd tail ih =>
    rw [List.length_cons] at hlen hadm
    have hacc : CanAccess s := ⟨by omega, by simpa using hadm 0 (Nat.succ_pos _)⟩
    rw [List.cons_append, cleanIrqs, exec_irq_of_inTransfer hrun hst hacc rd]
    refine ih (by simpa [State.Running] using hrun) (afterByte_inTransfer d rd s) ?_ fun j hj => ?_
    · simp only [afterByte_cur, afterDispatch_len, State.clearPend_len]
      omega
    · simpa [afterByte_cur, Nat.add_assoc, Nat.add_comm, Nat.add_left_comm] using hadm (j + 1) (by omega)

/-! ### The bytes of a write -/

theorem afterBytes_write_ct (rds : List Byte) (s : State) : (afterBytes false rds s).ct =
    s.ct ++ (List.range rds.length).map fun j => .writeData (memRead s.mem (s.buf + (s.cur + j))) := by
  induction rds generalizing s with
  | nil => simp [afterBytes]
  | cons rd rest ih =>
    have hct : (afterByte false rd s).ct = s.ct ++ [.writeData (memRead s.mem (s.buf + s.cur))] := rfl
    have hmem : (afterByte false rd s).mem = s.mem := rfl
    simp only [afterBytes, ih, hct, hmem, afterByte_cur, afterDispatch_buf, State.clearPend_buf, List.length_cons,
      List.range_succ_eq_map, List.map_cons, List.map_map, List.append_assoc, List.singleton_append, Nat.add_zero]
    simp only [Function.comp_def, Nat.succ_eq_add_one, Nat.add_assoc, Nat.add_comm 1]

/-! ### The bytes of a read -/

theorem afterBytes_read_ct (rds : List Byte) (s : State) :
    (afterBytes true rds s).ct = s.ct ++ rds.map Cmd.readData := by
  induction rds generalizing s with
  | nil => simp [afterBytes]
  | cons rd rest ih =>
    have hct : (afterByte true rd s).ct = s.ct ++ [.readData rd] := rfl
    simp [afterBytes, ih, hct]

theorem afterByte_read_mem (rd : Byte) (s : State) : (afterByte true rd s).mem = memWrite s.mem (s.buf + s.cur) rd := rfl

/-- A read stores from the cursor on and leaves what lies below. -/
theorem afterBytes_read_mem_below (rds : List Byte) {s : State} (hmem : s.mem.wf) {a : Nat} (ha : a < s.buf + s.cur) :
    memRead (afterBytes true rds s).mem a = memRead s.mem a := by
  induction rds generalizing s with
  | nil => rfl
  | cons rd rest ih =>
    rw [afterBytes, ih (memWrite_wf _ rd hmem) (by simp [afterByte_cur]; omega), afterByte_read_mem,
      memRead_memWrite_other rd hmem (by omega)]

/-- A read leaves the received bytes in the buffer, in order. -/
theorem afterBytes_read_mem (rds : List Byte) {s : State} (hmem : s.mem.wf) (j : Nat) (hj : j < rds.length) :
    memRead (afterBytes true rds s).mem (s.buf + (s.cur + j)) = rds[j] := by
  induction rds generalizing s j with
  | nil => cases hj
  | cons rd rest ih =>
    have hmem' : (afterByte true rd s).mem.wf := memWrite_wf _ rd hmem
    cases j with
    | zero =>
      rw [afterBytes, afterBytes_read_mem_below rest hmem' (by simp [afterByte_cur]), afterByte_read_mem]
      exact memRead_memWrite_same _ rd hmem
    | succ j =>
      have htail := ih hmem' j (Nat.lt_of_succ_lt_succ hj)
      rw [afterByte_cur, Nat.add_assoc, Nat.add_comm 1 j] at htail
      exact htail

/-! ### The transaction -/

/-- The state once SET_BUFFER and LAUNCH are made. -/
def armed (ref n : Nat) (a : BitVec 7) (d : Bool) (s : State) : State :=
  launched a d { s with buf := ref, len := n, cur := 0 }

section
variable (ref n : Nat) (a : BitVec 7) (d : Bool) (s : State)

@[simp] theorem armed_buf : (armed ref n a d s).buf = ref := rfl
@[simp] theorem armed_len : (armed ref n a d s).len = n := rfl
@[simp] theorem armed_cur : (armed ref n a d s).cur = 0 := rfl
@[simp] theorem armed_mem : (armed ref n a d s).mem = s.mem := rfl
@[simp] theorem armed_ht : (armed ref n a d s).ht = s.ht ++ [stateCode .start] := rfl
@[simp] theorem armed_ct : (armed ref n a d s).ct = s.ct ++ [.issueAddr (a ++ BitVec.ofBool d)] := rfl
@[simp] theorem armed_params : (armed ref n a d s).params = s.params := rfl

theorem armed_inTransfer (hn : 1 ≤ n) : InTransfer d (armed ref n a d s) :=
  (launched_state a d _).trans (if_neg (Nat.not_le.mpr hn)).symm

end

/-- The state after the last IRQ of a transaction, which finds Stop. -/
def transferred (ref n : Nat) (a : BitVec 7) (d : Bool) (rds : List Byte) (last : Byte) (s : State) : State :=
  afterDispatch .stop (some last) (afterBytes d rds (armed ref n a d s)).clearPend

/-- The whole sequence completes: SET_BUFFER, LAUNCH, the bytes, and the IRQ that finds Stop. -/
theorem transaction_eq {s : State} {ref n : Nat} {a : BitVec 7} {d : Bool} {rds : List Byte} (last : Byte)
    (hrun : s.Running) (hatomic : s.params.atomicLaunch = true) (hidle : s.state = stateCode .idle)
    (hwf : (Instr.setBuffer ref n).wf s.params = true) (hn : 1 ≤ n) (hrds : rds.length = n)
    (hadm : ∀ j, j < n → memAdmit s.params (ref + j) = true) :
    transaction ref n a d (rds ++ [last]) s = .next (transferred ref n a d rds last s) := by
  have hset := (setBufferStoresReferenceAndLength s ref n hrun hwf).right.left hidle
  have hlaunch : exec (.launch a d) { s with buf := ref, len := n, cur := 0 } = .next (armed ref n a d s) :=
    exec_launch_of_idle_atomic a d hrun hatomic hidle
  have harmed := armed_inTransfer ref n a d s hn
  have hrunning : (armed ref n a d s).Running := hrun
  have hbytes : cleanIrqs (rds ++ [last]) (armed ref n a d s) =
      cleanIrqs [last] (afterBytes d rds (armed ref n a d s)) :=
    cleanIrqs_bytes rds [last] hrunning harmed (by simp [hrds]) fun j hj => by simpa using hadm j (hrds ▸ hj)
  have hstop : (afterBytes d rds (armed ref n a d s)).state = stateCode .stop := by
    rw [afterBytes_inTransfer d rds _ harmed, afterBytes_cur, afterBytes_len]
    exact if_pos (by simp [hrds])
  have hlast := exec_irq_of_not_byte (afterBytes_running d rds _ hrunning) hstop (by decide) last
  simp only [transaction, hset, hlaunch, hbytes, cleanIrqs, hlast, transferred]

/-- Settles O53: the cursor, the traces and the buffer at the end are those of the bytes, between the address and the stop. -/
theorem cleanTransactionEndsWithCursorAtLength : Obligations.CleanTransactionEndsWithCursorAtLength := by
  intro s ref n a d rds last hrun hmem hatomic hidle hwf hn hrds hadm
  have hcur := afterBytes_cur d rds (armed ref n a d s)
  have hrunning := afterBytes_running d rds (armed ref n a d s) hrun
  have hht := afterBytes_ht d rds (armed ref n a d s)
  rw [armed_cur, Nat.zero_add, hrds] at hcur
  rw [armed_ht, hrds] at hht
  refine ⟨_, transaction_eq last hrun hatomic hidle hwf hn hrds hadm, rfl, hcur, hrunning.left,
    congrArg (· ++ [stateCode .stop]) hht, congrArg (· ++ [Cmd.issueStop]) ?_, ?_⟩
  · cases d with
    | false => simpa [hrds] using afterBytes_write_ct rds (armed ref n a false s)
    | true => exact afterBytes_read_ct rds (armed ref n a true s)
  · rintro rfl j hj
    have hread := afterBytes_read_mem rds (s := armed ref n a true s) hmem j hj
    rwa [armed_buf, armed_cur, Nat.zero_add] at hread

end Sys2Proof.Machine

/-! ## Fair runs (R216)

While a transaction is active, each delivered IRQ makes `irqsLeft` smaller or ends the transaction, and every other move leaves it
as it is; fairness delivers IRQs as long as the transaction goes on. -/

namespace Sys2Proof.Machine

/-- How many clean IRQs an active transaction still takes: one for each byte left, and one for Stop. -/
def irqsLeft (s : State) : Nat :=
  if s.state = stateCode .stop then 1 else s.len - s.cur + 1

/-- The invariants of a run with ATOMIC_LAUNCH that the progress of a transaction rests on. -/
structure AtomicInv (s : State) : Prop where
  atomic : s.params.atomicLaunch = true
  settled : s.Settled
  owesNone : s.AtomicOwesNone
  activeOwes : s.ActiveOwesOne

/-- Every step keeps them (O47, O49, O50). -/
theorem AtomicInv.step {s t : State} (h : AtomicInv s) (hst : step s = .next t) : AtomicInv t := by
  obtain ⟨hsettled, howes⟩ := stepKeepsStateSettled s t h.settled h.owesNone hst
  obtain ⟨hp, -⟩ := activeTransactionKeepsItsBuffer s t hst
  exact ⟨hp ▸ h.atomic, hsettled, howes,
    activeTransactionIsOwedAnInterrupt s t h.atomic h.owesNone h.settled h.activeOwes hst⟩

/-- The invariants do not read the list of moves. -/
theorem AtomicInv.withInputs {s : State} (h : AtomicInv s) (l : List Event) : AtomicInv { s with inputs := l } :=
  ⟨h.atomic, h.settled, h.owesNone, h.activeOwes⟩

/-- A byte handler that completes leaves fewer IRQs to take: one byte fewer, or only Stop. -/
theorem irqsLeft_afterDispatch_lt {q : FsmState} (rd : Option Byte) {b : State} (hq : IsByteState q) (hb : b.state = stateCode q)
    (hacc : CanAccess b) : irqsLeft (afterDispatch q rd b) < irqsLeft b := by
  have hcur := hacc.left
  have hnotStop : ¬ b.state = stateCode .stop := by
    rw [hb, stateCode_inj]
    rcases hq with rfl | rfl <;> decide
  rw [irqsLeft, irqsLeft, if_neg hnotStop, afterDispatch_len, afterDispatch_cur_of_byte rd b hq]
  split <;> omega

/-- The dispatch of a clean IRQ in an active transaction ends it or leaves fewer IRQs to take. -/
theorem dispatch_progress {q : FsmState} (rd : Option Byte) {b : State} (hatomic : b.params.atomicLaunch = true)
    (hsettled : b.Settled) (howes : b.AtomicOwesNone) (hb : b.state = stateCode q) (hacc : IsByteState q → CanAccess b) :
    (afterDispatch q rd b).state = stateCode .idle ∨ irqsLeft (afterDispatch q rd b) < irqsLeft b := by
  by_cases hq : IsByteState q
  · exact .inr (irqsLeft_afterDispatch_lt rd hq hb (hacc hq))
  · have hstart : q ≠ .start := by
      rintro rfl
      rw [State.Settled, howes hatomic, hb] at hsettled
      exact absurd hsettled (by decide)
    left
    rw [afterDispatch_state, stateCode_inj, nextState_eq_idle]
    exact not_or.mpr ⟨hstart, hq⟩

/-- A step of an active transaction that goes on without a mark ends it, takes one of its IRQs, or delivers none. -/
theorem active_step_progress {s t : State} (hs : AtomicInv s) (hactive : s.state ≠ stateCode .idle) (h : step s = .next t)
    (ht : t.Running) :
    t.state = stateCode .idle ∨ irqsLeft t < irqsLeft s ∨
      (deliversIrq (nextEvent s) = false ∧ irqsLeft t = irqsLeft s) := by
  have hu : (takeEvent s).state ≠ stateCode .idle := by simpa using hactive
  cases moved_of_step h with
  | nothing he ht => exact .inr (.inr ⟨he, by simp [ht, irqsLeft]⟩)
  | refused r hr =>
    subst hr
    cases ht.right
  | faulted r hr =>
    subst hr
    cases ht.left
  | launchBFaulted r q _ _ hr =>
    subst hr
    cases ht.left
  | bufferAssigned ref n hidle _ => exact absurd hidle hu
  | launchedA a d hidle _ _ => exact absurd hidle hu
  | hostWrote a v he _ ht => exact .inr (.inr ⟨he, by simp [ht, irqsLeft]⟩)
  | dispatched rd b q hfrom hb hacc hr =>
    subst hr
    cases hfrom with
    | launch a d hidle _ => exact absurd hidle hu
    | extReset =>
      obtain rfl : q = .reset := (stateCode_injective (q := .reset) hb).symm
      exact .inl rfl
    | launchB _ howed =>
      rw [takeEvent_launchesOwed, hs.owesNone hs.atomic] at howed
      cases howed
    | irq k l b rd _ =>
      cases hflag : k || l || b with
      | true =>
        rw [override_state_of_flag hflag, stateCode_inj] at hb
        left
        rw [afterDispatch_state, ← hb, nextState_forcedState]
      | false =>
        rw [override_of_no_flag hflag] at hb hacc ⊢
        have hprogress := dispatch_progress (some rd) (by simpa using hs.atomic) (by simpa [State.Settled] using hs.settled)
          (by simpa [State.AtomicOwesNone] using hs.owesNone) hb hacc
        have hleft : irqsLeft (takeEvent s).clearPend = irqsLeft s := by simp [irqsLeft]
        rw [hleft] at hprogress
        exact hprogress.imp_right .inl

section
variable {ev : Nat → Event} {run : Nat → State}

theorem IsRun.atomic (hrun : IsRun ev run) (h0 : AtomicInv (run 0)) (k : Nat) : AtomicInv (run k) := by
  induction k with
  | zero => exact h0
  | succ k ih => exact (ih.withInputs [ev k]).step (hrun k)

/-- In an endless run no mark is ever set: the next step exists. -/
theorem IsRun.running (hrun : IsRun ev run) (k : Nat) : (run k).Running := by
  obtain ⟨hf, hr, -⟩ := step_eq_next.mp (hrun k)
  exact ⟨hf, hr⟩

/-- `active_step_progress` along a run. -/
theorem IsRun.progress (hrun : IsRun ev run) (h0 : AtomicInv (run 0)) {k : Nat} (hactive : (run k).state ≠ stateCode .idle) :
    (run (k + 1)).state = stateCode .idle ∨ irqsLeft (run (k + 1)) < irqsLeft (run k) ∨
      (deliversIrq (ev k) = false ∧ irqsLeft (run (k + 1)) = irqsLeft (run k)) :=
  active_step_progress ((hrun.atomic h0 k).withInputs [ev k]) hactive (hrun k) (hrun.running (k + 1))

/-- A transaction that never ends takes no more IRQs at a later point than at an earlier one. -/
theorem IsRun.irqsLeft_le (hrun : IsRun ev run) (h0 : AtomicInv (run 0)) {k j : Nat} (hkj : k ≤ j)
    (hactive : ∀ i, k ≤ i → (run i).state ≠ stateCode .idle) : irqsLeft (run j) ≤ irqsLeft (run k) := by
  induction j, hkj using Nat.le_induction with
  | base => exact Nat.le_refl _
  | succ j hkj ih =>
    rcases hrun.progress h0 (hactive j hkj) with hidle | hlt | ⟨-, heq⟩
    · exact absurd hidle (hactive (j + 1) (by omega))
    · omega
    · omega

/-- From a point with `m` IRQs left the block gets idle: fairness delivers one, and `m - 1` at most are left. -/
theorem IsRun.eventually_idle (hrun : IsRun ev run) (hfair : FairDelivery ev run) (h0 : AtomicInv (run 0)) (m : Nat) :
    ∀ k, irqsLeft (run k) = m → ∃ j, k ≤ j ∧ (run j).state = stateCode .idle := by
  induction m using Nat.strong_induction_on with
  | _ m ih =>
    intro k hm
    by_contra hnever
    have hactive : ∀ i, k ≤ i → (run i).state ≠ stateCode .idle := fun i hi hidle => hnever ⟨i, hi, hidle⟩
    obtain ⟨j, hkj, hirq⟩ := hfair k fun i hi => (hrun.atomic h0 i).activeOwes (hactive i hi)
    have hle := hrun.irqsLeft_le h0 hkj hactive
    rcases hrun.progress h0 (hactive j hkj) with hidle | hlt | ⟨hno, -⟩
    · exact hactive (j + 1) (by omega) hidle
    · obtain ⟨i, hji, hidle⟩ := ih _ (by omega) (j + 1) rfl
      exact hactive i (by omega) hidle
    · exact absurd (hirq.symm.trans hno) (by decide)

end

/-- Settles O55: the number of IRQs left goes down with every delivered one, and it cannot go down for ever. -/
theorem fairRunsReturnToIdle : Obligations.FairRunsReturnToIdle := by
  intro ev run hrun hfair hatomic hsettled howes hactive k
  exact hrun.eventually_idle hfair ⟨hatomic, hsettled, howes, hactive⟩ _ k rfl

end Sys2Proof.Machine
